-- ==== Sys2Proof/Word.lean ====
section
/-! DEFINITION. The word types of the Hash2 core: 64-bit words, bytes, register offsets, and the
four-word tuples in which the core holds its state and its block (00_scope.md R7, R11). -/

namespace Sys2Proof

/-- A word of the datapath and of the register port, `W = 64` bits (00_scope.md R7). -/
abbrev Word := BitVec 64

/-- A byte of a message or of a digest. -/
abbrev Byte := BitVec 8

/-- A byte offset in the register window, the port `bus_addr` of 10_state.md R20. -/
abbrev Offset := BitVec 7

/-- Four words: the state `S[0..3]` (10_state.md R21), the block `BLK[0..3]` (R26), a latched
block `Wm[0..3]` (R30) or an initial state `IV[0..3]` (00_scope.md R5). -/
structure Quad where
  w0 : Word
  w1 : Word
  w2 : Word
  w3 : Word
deriving DecidableEq, Repr

end Sys2Proof
end

