-- ==== Sys2Proof/Config.lean ====
section
/-! DEFINITION. The configuration record `CFG` of 00_scope.md R5, its legality check, and the free
values the spec leaves open. The numbers of profile TH1 are in Sys2Proof/Machine/Profile.lean. -/

namespace Sys2Proof

/-- The pair of state words swapped at the end of every round (00_scope.md R5). -/
inductive SwapSel where
  /-- Words 0 and 1, code 0. -/
  | swap01
  /-- Words 2 and 3, code 1. -/
  | swap23
deriving DecidableEq, Repr

/-- The fields of `CFG` (00_scope.md R5), before the check of their legal values. -/
structure RawConfig where
  /-- `CFG.IV`. -/
  iv : Quad
  /-- `CFG.ROT`: the pairs of rotation amounts, in order. Its length is `ROT_LEN`. -/
  rot : List (Nat × Nat)
  /-- `CFG.ROUNDS_BLOCK`. -/
  roundsBlock : Nat
  /-- `CFG.ROUNDS_FINAL`. -/
  roundsFinal : Nat
  /-- `CFG.SWAP_SEL`. -/
  swapSel : SwapSel
  /-- `CFG.PARAM_ID`. -/
  paramId : BitVec 32
deriving DecidableEq, Repr

/-- A legal rotation amount, 1 to 63: "must never be 0 or 64" (00_scope.md R5). -/
def legalAmount (r : Nat) : Bool := 1 ≤ r && r ≤ 63

/-- The legal-value column of 00_scope.md R5. -/
def RawConfig.legal (c : RawConfig) : Bool :=
  1 ≤ c.rot.length && c.rot.length ≤ 255
    && c.rot.all (fun p => legalAmount p.1 && legalAmount p.2)
    && 1 ≤ c.roundsBlock && c.roundsBlock ≤ 127
    && 2 * c.roundsBlock ≤ c.roundsFinal && c.roundsFinal ≤ 255

/-- A configuration of a Hash2 core. One that breaks a legal-value column of 00_scope.md R5 "is not
a Hash2 core; a model refuses it": it has no value of this type (93_implementation_defined.md U1
and U15). DEDUCED: the check is at construction because R5 calls it "a well-formedness check on
`CFG`, not a run-time error". Safe. Log entry 16. -/
structure Config where
  raw : RawConfig
  legal : raw.legal = true
deriving DecidableEq, Repr

/-- The refusal of illegal configurations (93_implementation_defined.md U15). -/
def Config.check (c : RawConfig) : Option Config :=
  if h : c.legal = true then some ⟨c, h⟩ else none

/-- `ANY64` of 43_register_access.md R160: the value of the `k`-th free draw. It has no body, so no
proof can see a value of it. DESIGN CHOICE: successive draws are this constant at successive
arguments. Safe. Log entry 7. -/
opaque Config.anyWord : Nat → Word

end Sys2Proof
end

