-- ==== Sys2Proof/Syntax.lean ====
section
/-! DEFINITION. The instructions: one constructor per row of spec/opcode_table.json. -/

namespace Sys2Proof

/-- The 39 rows of the opcode table. The four command words of format CMD (30_encoding.md R71), and
the transactions of format BUS (R76), which the table gives one row for each register and
direction. A write carries its data `v`, the 64 bits of `bus_wdata`; a read carries none. -/
inductive Instr where
  -- Format CMD (30_encoding.md R70 to R73): the word is written to CMD.
  /-- `NOP` (42_commands.md R137). -/
  | nop
  /-- `INIT` (R132). -/
  | init
  /-- `ABSORB n` with `n = NM1 + 1` (R135). -/
  | absorb (nm1 : BitVec 5)
  /-- `FINAL` (R138). -/
  | final
  -- Format BUS: the registers (43_register_access.md R151 to R161).
  | wrCmd (v : Word)
  | rdCmd
  | rdStatus
  | wrStatus (v : Word)
  | rdLen
  | rdParams
  | rdBlk0
  | rdBlk1
  | rdBlk2
  | rdBlk3
  | wrBlk0 (v : Word)
  | wrBlk1 (v : Word)
  | wrBlk2 (v : Word)
  | wrBlk3 (v : Word)
  | rdState0
  | rdState1
  | rdState2
  | rdState3
  | rdDigest0
  | rdDigest1
  | rdDigest2
  -- Format BUS: writes to read-only registers (R165).
  | wrLen (v : Word)
  | wrParams (v : Word)
  | wrState0 (v : Word)
  | wrState1 (v : Word)
  | wrState2 (v : Word)
  | wrState3 (v : Word)
  | wrDigest0 (v : Word)
  | wrDigest1 (v : Word)
  | wrDigest2 (v : Word)
  -- Format BUS: the reserved offset 0x78 (R166).
  | rdReserved
  | wrReserved (v : Word)
  -- Format BUS: misaligned offsets (R164). `d` is the write's data, or none for a read.
  /-- `addr[0] = 1`. -/
  | misaligned0 (d : Option Word) (a : Offset)
  /-- `addr[1] = 1` (and `addr[0] = 0`: log entry 12). -/
  | misaligned1 (d : Option Word) (a : Offset)
  /-- `addr[2] = 1` (and `addr[1:0] = 0`: log entry 12). -/
  | misaligned2 (d : Option Word) (a : Offset)
deriving DecidableEq, Repr

end Sys2Proof
end

