-- ==== Sys2Proof/WellFormed.lean ====
section
/-! DEFINITION. Which terms of Instr stand for an encoding: the offset of a misaligned transaction
must be the one its row says. Every other term is well-formed, since its fields have exactly the
widths of the encoding (30_encoding.md R70 to R76). -/

namespace Sys2Proof

/-- The number of the lowest of the three low bits set in an offset, or none where the offset is
8-byte aligned (20_memory.md R55). -/
def misalignedBit (a : Offset) : Option Nat :=
  if a.getLsbD 0 then some 0
  else if a.getLsbD 1 then some 1
  else if a.getLsbD 2 then some 2
  else none

/-- The well-formedness check. The table's three misaligned rows overlap (30_encoding.md R76); a
term is well-formed for the row of the lowest bit set. DESIGN CHOICE, safe: the three have one
meaning (43_register_access.md R164). Log entry 12. -/
def Instr.wf : Instr → Bool
  | .misaligned0 _ a => misalignedBit a == some 0
  | .misaligned1 _ a => misalignedBit a == some 1
  | .misaligned2 _ a => misalignedBit a == some 2
  | .nop | .init | .absorb _ | .final
  | .wrCmd _ | .rdCmd | .rdStatus | .wrStatus _ | .rdLen | .rdParams
  | .rdBlk0 | .rdBlk1 | .rdBlk2 | .rdBlk3
  | .wrBlk0 _ | .wrBlk1 _ | .wrBlk2 _ | .wrBlk3 _
  | .rdState0 | .rdState1 | .rdState2 | .rdState3
  | .rdDigest0 | .rdDigest1 | .rdDigest2
  | .wrLen _ | .wrParams _ | .wrState0 _ | .wrState1 _ | .wrState2 _ | .wrState3 _
  | .wrDigest0 _ | .wrDigest1 _ | .wrDigest2 _
  | .rdReserved | .wrReserved _ => true

end Sys2Proof
end

