-- ==== Sys2Proof/Decode.lean ====
section
/-! DEFINITION. Decoding command words (30_encoding.md R75) and transactions (R76), the encoders
written from the same tables, and the numbering of spec/opcode_table.json. -/

namespace Sys2Proof

/-! ## Command words -/

/-- A legal command (30_encoding.md R71). -/
inductive Command where
  | nop
  | init
  | absorb (nm1 : BitVec 5)
  | final
deriving DecidableEq, Repr

/-- Why a command word is ILLEGAL (30_encoding.md R73, R74). -/
inductive DecodeError where
  /-- RES0 or RES1 is nonzero. -/
  | reservedField
  /-- NM1 is nonzero with an OP other than ABSORB. -/
  | strayCount
  /-- OP is one of 4 to 15. -/
  | reservedOp
deriving DecidableEq, Repr

/-- The field OP, bits 3:0 (30_encoding.md R70). -/
def opField (v : Word) : BitVec 4 := v.extractLsb' 0 4

/-- The field RES0, bits 7:4. -/
def res0Field (v : Word) : BitVec 4 := v.extractLsb' 4 4

/-- The field NM1, bits 12:8. -/
def nm1Field (v : Word) : BitVec 5 := v.extractLsb' 8 5

/-- The field RES1, bits 63:13. -/
def res1Field (v : Word) : BitVec 51 := v.extractLsb' 13 51

/-- The command of an OP that takes no count: NM1 must be 0. -/
def plainCommand (nm1 : BitVec 5) (c : Command) : Except DecodeError Command :=
  if nm1 = 0#5 then .ok c else .error .strayCount

/-- The command decoder, total on 64-bit words (30_encoding.md R75). -/
def decodeCommand (v : Word) : Except DecodeError Command :=
  if res1Field v ≠ 0 ∨ res0Field v ≠ 0 then .error .reservedField
  else if opField v = 0#4 then plainCommand (nm1Field v) .nop
  else if opField v = 1#4 then plainCommand (nm1Field v) .init
  else if opField v = 2#4 then .ok (.absorb (nm1Field v))
  else if opField v = 3#4 then plainCommand (nm1Field v) .final
  else .error .reservedOp

/-- The word with an OP and a count field, every reserved field zero (30_encoding.md R70). -/
def commandWord (op : BitVec 4) (nm1 : BitVec 5) : Word := 0#51 ++ nm1 ++ 0#4 ++ op

/-- The command encoder (30_encoding.md R71, R72). -/
def encodeCommand : Command → Word
  | .nop => commandWord 0#4 0#5
  | .init => commandWord 1#4 0#5
  | .absorb nm1 => commandWord 2#4 nm1
  | .final => commandWord 3#4 0#5

/-- The instruction a command is. -/
def Command.toInstr : Command → Instr
  | .nop => .nop
  | .init => .init
  | .absorb nm1 => .absorb nm1
  | .final => .final

/-! ## Transactions -/

/-- A transaction of the register port (00_scope.md R14): `BusRead(a)` or `BusWrite(a, v)`. -/
inductive Transaction where
  | read (a : Offset)
  | write (a : Offset) (v : Word)
deriving DecidableEq, Repr

/-- The offset `bus_addr`. -/
def Transaction.addr : Transaction → Offset
  | .read a => a
  | .write a _ => a

/-- The write data, or none for a read. -/
def Transaction.data : Transaction → Option Word
  | .read _ => none
  | .write _ v => some v

/-- `bus_we`: 1 for a write. -/
def Transaction.we : Transaction → BitVec 1
  | .read _ => 0#1
  | .write _ _ => 1#1

/-- The key of 30_encoding.md R76: `bus_we` above `bus_addr[6:0]`. -/
def Transaction.key (t : Transaction) : BitVec 8 := t.we ++ t.addr

/-- The read of an aligned offset (30_encoding.md R76; 43_register_access.md R150). The last arm
is reached by 0x78 alone, the sixteenth aligned offset. -/
def decodeRead (a : Offset) : Instr :=
  match a with
  | 0x00#7 => .rdCmd
  | 0x08#7 => .rdStatus
  | 0x10#7 => .rdLen
  | 0x18#7 => .rdParams
  | 0x20#7 => .rdBlk0
  | 0x28#7 => .rdBlk1
  | 0x30#7 => .rdBlk2
  | 0x38#7 => .rdBlk3
  | 0x40#7 => .rdState0
  | 0x48#7 => .rdState1
  | 0x50#7 => .rdState2
  | 0x58#7 => .rdState3
  | 0x60#7 => .rdDigest0
  | 0x68#7 => .rdDigest1
  | 0x70#7 => .rdDigest2
  | _ => .rdReserved

/-- The write of an aligned offset. The last arm is reached by 0x78 alone. -/
def decodeWrite (a : Offset) (v : Word) : Instr :=
  match a with
  | 0x00#7 => .wrCmd v
  | 0x08#7 => .wrStatus v
  | 0x10#7 => .wrLen v
  | 0x18#7 => .wrParams v
  | 0x20#7 => .wrBlk0 v
  | 0x28#7 => .wrBlk1 v
  | 0x30#7 => .wrBlk2 v
  | 0x38#7 => .wrBlk3 v
  | 0x40#7 => .wrState0 v
  | 0x48#7 => .wrState1 v
  | 0x50#7 => .wrState2 v
  | 0x58#7 => .wrState3 v
  | 0x60#7 => .wrDigest0 v
  | 0x68#7 => .wrDigest1 v
  | 0x70#7 => .wrDigest2 v
  | _ => .wrReserved v

/-- The transaction decoder, total: misalignment is checked first (43_register_access.md R150). -/
def decode (t : Transaction) : Instr :=
  match misalignedBit t.addr with
  | some 0 => .misaligned0 t.data t.addr
  | some 1 => .misaligned1 t.data t.addr
  | some _ => .misaligned2 t.data t.addr
  | none =>
    match t with
    | .read a => decodeRead a
    | .write a v => decodeWrite a v

/-- The transaction at an offset with given write data. -/
def Transaction.of (d : Option Word) (a : Offset) : Transaction :=
  match d with
  | none => .read a
  | some v => .write a v

/-! ## The two formats together -/

/-- An encoded instruction in one of the table's two formats (30_encoding.md R70, R76). -/
inductive Encoded where
  /-- Format CMD: a command word. -/
  | cmd (w : Word)
  /-- Format BUS: a transaction. -/
  | bus (t : Transaction)
deriving DecidableEq, Repr

/-- Decoding an encoded instruction of either format. -/
def Encoded.decode : Encoded → Except DecodeError Instr
  | .cmd w => (decodeCommand w).map Command.toInstr
  | .bus t => .ok (Sys2Proof.decode t)

/-- The transaction that carries an encoded instruction over the port: a command word is a write of
CMD, offset 0x00 (30_encoding.md R70, R79). -/
def Encoded.transaction : Encoded → Transaction
  | .cmd w => .write 0x00#7 w
  | .bus t => t

/-- The encoder, from 30_encoding.md R71 and R76 and the register map of 10_state.md R31. -/
def encode : Instr → Encoded
  | .nop => .cmd (encodeCommand .nop)
  | .init => .cmd (encodeCommand .init)
  | .absorb nm1 => .cmd (encodeCommand (.absorb nm1))
  | .final => .cmd (encodeCommand .final)
  | .wrCmd v => .bus (.write 0x00#7 v)
  | .rdCmd => .bus (.read 0x00#7)
  | .rdStatus => .bus (.read 0x08#7)
  | .wrStatus v => .bus (.write 0x08#7 v)
  | .rdLen => .bus (.read 0x10#7)
  | .rdParams => .bus (.read 0x18#7)
  | .rdBlk0 => .bus (.read 0x20#7)
  | .rdBlk1 => .bus (.read 0x28#7)
  | .rdBlk2 => .bus (.read 0x30#7)
  | .rdBlk3 => .bus (.read 0x38#7)
  | .wrBlk0 v => .bus (.write 0x20#7 v)
  | .wrBlk1 v => .bus (.write 0x28#7 v)
  | .wrBlk2 v => .bus (.write 0x30#7 v)
  | .wrBlk3 v => .bus (.write 0x38#7 v)
  | .rdState0 => .bus (.read 0x40#7)
  | .rdState1 => .bus (.read 0x48#7)
  | .rdState2 => .bus (.read 0x50#7)
  | .rdState3 => .bus (.read 0x58#7)
  | .rdDigest0 => .bus (.read 0x60#7)
  | .rdDigest1 => .bus (.read 0x68#7)
  | .rdDigest2 => .bus (.read 0x70#7)
  | .wrLen v => .bus (.write 0x10#7 v)
  | .wrParams v => .bus (.write 0x18#7 v)
  | .wrState0 v => .bus (.write 0x40#7 v)
  | .wrState1 v => .bus (.write 0x48#7 v)
  | .wrState2 v => .bus (.write 0x50#7 v)
  | .wrState3 v => .bus (.write 0x58#7 v)
  | .wrDigest0 v => .bus (.write 0x60#7 v)
  | .wrDigest1 v => .bus (.write 0x68#7 v)
  | .wrDigest2 v => .bus (.write 0x70#7 v)
  | .rdReserved => .bus (.read 0x78#7)
  | .wrReserved v => .bus (.write 0x78#7 v)
  | .misaligned0 d a => .bus (.of d a)
  | .misaligned1 d a => .bus (.of d a)
  | .misaligned2 d a => .bus (.of d a)

/-! ## The opcode table and its numbering of bits -/

/-- The encoded instruction whose bits are `w`. The table gives a row of format CMD 64 bits, the
command word itself, and a row of format BUS 8 bits, the key; the write data of a transaction
follows the key, so it is bits 71:8 and 0 where the row stops at the key. DESIGN CHOICE: the number
of bits says which of the table's two formats a row is in. Safe. Log entry 13. -/
def Encoded.ofTable (nbits w : Nat) : Encoded :=
  if nbits = 64 then .cmd (BitVec.ofNat 64 w)
  else
    let bits := BitVec.ofNat 72 w
    let a := bits.extractLsb' 0 7
    .bus (if bits.getLsbD 7 then .write a (bits.extractLsb' 8 64) else .read a)

/-- The instruction the decoder reads from the bits of an opcode-table row. -/
def decodeTableWord (nbits w : Nat) : Option Instr :=
  match (Encoded.ofTable nbits w).decode with
  | .ok i => some i
  | .error _ => none

/-- One row of format BUS in spec/opcode_table.json: the key must equal `pattern` on the bits of
`mask` (30_encoding.md R76). -/
structure KeyRow where
  mnemonic : String
  pattern : BitVec 8
  mask : BitVec 8
deriving DecidableEq, Repr

/-- The key fits the row. -/
def KeyRow.fits (r : KeyRow) (k : BitVec 8) : Bool := k &&& r.mask == r.pattern

/-- The rows of format BUS with a key of their own, register accesses. -/
def registerRows : List KeyRow :=
  [⟨"WR_CMD", 0x80, 0xFF⟩, ⟨"RD_CMD", 0x00, 0xFF⟩, ⟨"RD_STATUS", 0x08, 0xFF⟩,
   ⟨"WR_STATUS", 0x88, 0xFF⟩, ⟨"RD_LEN", 0x10, 0xFF⟩, ⟨"RD_PARAMS", 0x18, 0xFF⟩,
   ⟨"RD_BLK0", 0x20, 0xFF⟩, ⟨"RD_BLK1", 0x28, 0xFF⟩, ⟨"RD_BLK2", 0x30, 0xFF⟩,
   ⟨"RD_BLK3", 0x38, 0xFF⟩, ⟨"WR_BLK0", 0xA0, 0xFF⟩, ⟨"WR_BLK1", 0xA8, 0xFF⟩,
   ⟨"WR_BLK2", 0xB0, 0xFF⟩, ⟨"WR_BLK3", 0xB8, 0xFF⟩, ⟨"RD_STATE0", 0x40, 0xFF⟩,
   ⟨"RD_STATE1", 0x48, 0xFF⟩, ⟨"RD_STATE2", 0x50, 0xFF⟩, ⟨"RD_STATE3", 0x58, 0xFF⟩,
   ⟨"RD_DIGEST0", 0x60, 0xFF⟩, ⟨"RD_DIGEST1", 0x68, 0xFF⟩, ⟨"RD_DIGEST2", 0x70, 0xFF⟩]

/-- The aligned rows of format BUS that raise BAD_ACCESS. -/
def badAccessRows : List KeyRow :=
  [⟨"WR_LEN__read-only__BAD_ACCESS", 0x90, 0xFF⟩,
   ⟨"WR_PARAMS__read-only__BAD_ACCESS", 0x98, 0xFF⟩,
   ⟨"WR_STATE0__read-only__BAD_ACCESS", 0xC0, 0xFF⟩,
   ⟨"WR_STATE1__read-only__BAD_ACCESS", 0xC8, 0xFF⟩,
   ⟨"WR_STATE2__read-only__BAD_ACCESS", 0xD0, 0xFF⟩,
   ⟨"WR_STATE3__read-only__BAD_ACCESS", 0xD8, 0xFF⟩,
   ⟨"WR_DIGEST0__read-only__BAD_ACCESS", 0xE0, 0xFF⟩,
   ⟨"WR_DIGEST1__read-only__BAD_ACCESS", 0xE8, 0xFF⟩,
   ⟨"WR_DIGEST2__read-only__BAD_ACCESS", 0xF0, 0xFF⟩,
   ⟨"RD__0x78__reserved__BAD_ACCESS", 0x78, 0xFF⟩,
   ⟨"WR__0x78__reserved__BAD_ACCESS", 0xF8, 0xFF⟩]

/-- The three overlapping rows of misaligned keys. -/
def misalignedRows : List KeyRow :=
  [⟨"MISALIGNED__addr_0____1__BAD_ACCESS", 0x01, 0x01⟩,
   ⟨"MISALIGNED__addr_1____1__BAD_ACCESS", 0x02, 0x02⟩,
   ⟨"MISALIGNED__addr_2____1__BAD_ACCESS", 0x04, 0x04⟩]

/-- Every row of format BUS. -/
def keyRows : List KeyRow := misalignedRows ++ registerRows ++ badAccessRows

/-- The mnemonic of an instruction's row of the opcode table. -/
def Instr.mnemonic : Instr → String
  | .nop => "NOP"
  | .init => "INIT"
  | .absorb _ => "ABSORB"
  | .final => "FINAL"
  | .wrCmd _ => "WR_CMD"
  | .rdCmd => "RD_CMD"
  | .rdStatus => "RD_STATUS"
  | .wrStatus _ => "WR_STATUS"
  | .rdLen => "RD_LEN"
  | .rdParams => "RD_PARAMS"
  | .rdBlk0 => "RD_BLK0"
  | .rdBlk1 => "RD_BLK1"
  | .rdBlk2 => "RD_BLK2"
  | .rdBlk3 => "RD_BLK3"
  | .wrBlk0 _ => "WR_BLK0"
  | .wrBlk1 _ => "WR_BLK1"
  | .wrBlk2 _ => "WR_BLK2"
  | .wrBlk3 _ => "WR_BLK3"
  | .rdState0 => "RD_STATE0"
  | .rdState1 => "RD_STATE1"
  | .rdState2 => "RD_STATE2"
  | .rdState3 => "RD_STATE3"
  | .rdDigest0 => "RD_DIGEST0"
  | .rdDigest1 => "RD_DIGEST1"
  | .rdDigest2 => "RD_DIGEST2"
  | .wrLen _ => "WR_LEN__read-only__BAD_ACCESS"
  | .wrParams _ => "WR_PARAMS__read-only__BAD_ACCESS"
  | .wrState0 _ => "WR_STATE0__read-only__BAD_ACCESS"
  | .wrState1 _ => "WR_STATE1__read-only__BAD_ACCESS"
  | .wrState2 _ => "WR_STATE2__read-only__BAD_ACCESS"
  | .wrState3 _ => "WR_STATE3__read-only__BAD_ACCESS"
  | .wrDigest0 _ => "WR_DIGEST0__read-only__BAD_ACCESS"
  | .wrDigest1 _ => "WR_DIGEST1__read-only__BAD_ACCESS"
  | .wrDigest2 _ => "WR_DIGEST2__read-only__BAD_ACCESS"
  | .rdReserved => "RD__0x78__reserved__BAD_ACCESS"
  | .wrReserved _ => "WR__0x78__reserved__BAD_ACCESS"
  | .misaligned0 _ _ => "MISALIGNED__addr_0____1__BAD_ACCESS"
  | .misaligned1 _ _ => "MISALIGNED__addr_1____1__BAD_ACCESS"
  | .misaligned2 _ _ => "MISALIGNED__addr_2____1__BAD_ACCESS"

end Sys2Proof
end

