-- ==== Sys2Proof/Machine/Profile.lean ====
section
/-! DEFINITION. Profile TH1, the default configuration (00_scope.md R6). -/

namespace Sys2Proof

/-- The numbers of profile TH1 (00_scope.md R6). PRESUMED: R6 itself marks every one of them "from
general knowledge, not in source" (93_implementation_defined.md K1 to K3). Unsafe for a claim that
names TH1. Log entry 2. -/
def RawConfig.th1 : RawConfig where
  iv := ⟨0x5d6daffc4411a967, 0xe22d4dea68577f34, 0xca50864d814cbc2e, 0x894e29b9611eb173⟩
  rot := [(16, 28), (14, 57), (11, 22), (35, 34), (57, 16), (59, 40), (44, 13)]
  roundsBlock := 7
  roundsFinal := 14
  swapSel := .swap01
  paramId := 0x00000001

/-- Profile TH1 as a configuration: it "satisfies every constraint of rule R5" (R6). -/
def Config.th1 : Config := ⟨RawConfig.th1, by decide⟩

end Sys2Proof
end

