-- ==== Sys2Proof/Machine/State.lean ====
section
/-! DEFINITION. The state of the Hash2 core (10_state.md R21 to R37), the events of the world around
it, the reasons a step can stop, and the state after reset. -/

namespace Sys2Proof.Machine

/-- The operation in flight, `PEND` (10_state.md R30). -/
inductive Pend where
  | none
  | init
  /-- The masked block `Wm[0..3]` latched at acceptance. -/
  | absorb (wm : Quad)
  /-- The bit length `LB` latched at acceptance. -/
  | final (lb : Word)
deriving DecidableEq, Repr

/-- The errors `raise` can record (60_exceptions.md R200). They are not faults of the machine:
"Errors are not traps" (R201). -/
inductive ErrorKind where
  | badAccess
  | illegalCmd
  | busyErr
  | sequence
  | lenOvf
deriving DecidableEq, Repr

/-- What the world outside delivers at a rising clock edge (00_scope.md R9). DESIGN CHOICE: the
Host's transactions, the Engine's turns and the level of `rst` come from one list, so that each
interleaving the spec allows is a list. Safe: statements hold for every list. Log entries 3 and 4. -/
inductive Event where
  /-- The Host presents a transaction. -/
  | transaction (t : Transaction)
  /-- The Engine takes its step, if it has one (42_commands.md R141). -/
  | engine
  /-- The port `rst` takes a level (10_state.md R20). -/
  | rst (level : Bool)
deriving DecidableEq, Repr

/-- The reasons the machine stops. -/
inductive Fault where
  /-- A transaction is presented while `rst = 1`. Raised by `step` alone, never by an instruction.
  The spec calls it stuck: "The Host has no step during reset" (93_implementation_defined.md U10,
  70_reset_and_hazards.md R232). Safe. Log entry 6. -/
  | transactionDuringReset
deriving DecidableEq, Repr

/-- The reasons a step has no meaning. -/
inductive Refusal where
  /-- An instruction not modelled yet. No arm of `exec` answers it: all are modelled. Safe. -/
  | notModelled (mnemonic : String)
deriving DecidableEq, Repr

/-- The state. The first eight fields after `cfg` are what 10_state.md gives the core; `inputs`,
`reads` and `draws` are the model's own. -/
structure State where
  /-- The configuration of this core (00_scope.md R5). DESIGN CHOICE: `step` has no other argument,
  so it stands here; nothing writes it. Safe. Log entry 1. -/
  cfg : Config
  /-- The state words `S[0..3]` (10_state.md R21). -/
  S : Quad
  /-- `LEN`, the bytes absorbed (R22). -/
  len : BitVec 64
  /-- `BUSY` (R23). -/
  busy : Bool
  /-- `PHASE` (R24). -/
  phase : BitVec 2
  /-- `ERR` (R25). -/
  err : BitVec 4
  /-- The block registers `BLK[0..3]` (R26). -/
  blk : Quad
  /-- `PEND` (R30). -/
  pend : Pend
  /-- The level of the port `rst` (R20, 70_reset_and_hazards.md R230). Log entry 5. -/
  rst : Bool
  /-- The fault mark that every `raise` sets and nothing clears (93_implementation_defined.md U2).
  Log entry 9. -/
  faulted : Bool
  /-- The events still to come, the next one first. Log entry 3. -/
  inputs : List Event
  /-- The values reads returned, the newest first (00_scope.md R10). Log entry 8. -/
  reads : List Word
  /-- How many free values were drawn (43_register_access.md R160). Log entry 7. -/
  draws : Nat
deriving DecidableEq, Repr

/-- A core of configuration `c` right after reset (10_state.md R36), the world around it silent. -/
def State.resetOf (c : Config) : State where
  cfg := c
  S := c.raw.iv
  len := 0#64
  busy := false
  phase := 0#2
  err := 0#4
  blk := ⟨0#64, 0#64, 0#64, 0#64⟩
  pend := .none
  rst := false
  faulted := false
  inputs := []
  reads := []
  draws := 0

/-- The machine right after reset, with the default configuration (00_scope.md R6). -/
def State.reset : State := State.resetOf Config.th1

end Sys2Proof.Machine
end

