-- ==== Sys2Proof/Machine/Flags.lean ====
section
/-! DEFINITION. The codes and words of the status registers: PHASE, ERR, STATUS and PARAMS
(10_state.md R24, R27, R28; 60_exceptions.md R200). -/

namespace Sys2Proof.Machine

/-- `PHASE = OPEN`, code 0 (10_state.md R24). -/
def phaseOpen : BitVec 2 := 0#2

/-- `PHASE = TAIL`, code 1. -/
def phaseTail : BitVec 2 := 1#2

/-- `PHASE = DONE`, code 2. -/
def phaseDone : BitVec 2 := 2#2

/-- The code an error has in STATUS.ERR (60_exceptions.md R200). -/
def ErrorKind.code : ErrorKind → BitVec 4
  | .badAccess => 1#4
  | .illegalCmd => 2#4
  | .busyErr => 3#4
  | .sequence => 4#4
  | .lenOvf => 5#4

/-- The phase after an ABSORB of `n` bytes: `(n = 32) ? OPEN : TAIL` (42_commands.md R135). -/
def phaseAfterAbsorb (n : Nat) : BitVec 2 := if n = 32 then phaseOpen else phaseTail

/-- The word a STATUS read returns, `zext_64({ERR, 5'b0, PHASE, BUSY})` (10_state.md R28). -/
def statusWord (s : State) : Word :=
  (s.err ++ 0#5 ++ s.phase ++ BitVec.ofBool s.busy).setWidth 64

/-- The code of SWAP_SEL (00_scope.md R5). -/
def swapCode : SwapSel → BitVec 1
  | .swap01 => 0#1
  | .swap23 => 1#1

/-- The constant PARAMS (10_state.md R27). -/
def paramsWord (c : Config) : Word :=
  c.raw.paramId ++ BitVec.ofNat 8 c.raw.rot.length ++ 0#7 ++ swapCode c.raw.swapSel
    ++ BitVec.ofNat 8 c.raw.roundsFinal ++ BitVec.ofNat 8 c.raw.roundsBlock

/-- The digest is valid: `PHASE = DONE` and `BUSY = 0` (10_state.md R29). -/
def digestValid (s : State) : Bool := s.phase == phaseDone && !s.busy

end Sys2Proof.Machine
end

