-- ==== Sys2Proof/Machine/Operands.lean ====
section
/-! DEFINITION. Operands: words of a four-word tuple, bytes and words (00_scope.md R13), the count
of ABSORB (30_encoding.md R72), the padding mask (42_commands.md R134) and the digest views
(10_state.md R29). -/

namespace Sys2Proof

/-- Word `j` of a tuple. -/
def Quad.word (q : Quad) : Fin 4 → Word
  | 0 => q.w0
  | 1 => q.w1
  | 2 => q.w2
  | 3 => q.w3

/-- The tuple with word `j` replaced. -/
def Quad.setWord (q : Quad) (j : Fin 4) (v : Word) : Quad :=
  match j with
  | 0 => { q with w0 := v }
  | 1 => { q with w1 := v }
  | 2 => { q with w2 := v }
  | 3 => { q with w3 := v }

/-- `S[j] ^ W[j]` for `j = 0..3` (41_hash_algorithm.md R113). -/
def Quad.xor (a b : Quad) : Quad :=
  ⟨a.w0 ^^^ b.w0, a.w1 ^^^ b.w1, a.w2 ^^^ b.w2, a.w3 ^^^ b.w3⟩

end Sys2Proof

namespace Sys2Proof.Machine

/-! ## Bytes and words -/

/-- `le64` of a byte sequence: byte `k` is bits `8k+7:8k` (00_scope.md R13). -/
def le64 : List Byte → Word
  | [] => 0#64
  | b :: bs => b.setWidth 64 ||| (le64 bs <<< 8)

/-- Byte `k` of a word, its bits `8k+7:8k`. -/
def byteOf (w : Word) (k : Nat) : Byte := w.extractLsb' (8 * k) 8

/-- `unle64`: the eight bytes of a word, low byte first (00_scope.md R13). -/
def unle64 (w : Word) : List Byte := (List.range 8).map (byteOf w)

/-- The 32 bytes of four words, word by word and low byte first (10_state.md R26, 20_memory.md R51). -/
def quadBytes (q : Quad) : List Byte := unle64 q.w0 ++ unle64 q.w1 ++ unle64 q.w2 ++ unle64 q.w3

/-- The four words of a 32-byte buffer (41_hash_algorithm.md R113). -/
def quadOfBytes (b : List Byte) : Quad :=
  ⟨le64 (b.take 8), le64 ((b.drop 8).take 8), le64 ((b.drop 16).take 8), le64 ((b.drop 24).take 8)⟩

/-- A block's bytes in a 32-byte buffer of zeros (41_hash_algorithm.md R112). -/
def padBlock (b : List Byte) : List Byte := b ++ List.replicate (32 - b.length) 0#8

/-! ## ABSORB -/

/-- The byte count of ABSORB, `n = zext(NM1) + 1` (30_encoding.md R72). -/
def byteCount (nm1 : BitVec 5) : Nat := nm1.toNat + 1

/-- `LEN_MAX = 2^61 - 1` (00_scope.md R7). -/
def lenMax : Nat := 2 ^ 61 - 1

/-- The bytes of word `j` inside a block of `n` bytes, `max(0, min(8, n - 8*j))` (42_commands.md
R134). The subtraction of naturals stops at 0, which is the `max`. -/
def bytesInWord (n j : Nat) : Nat := min 8 (n - 8 * j)

/-- `ByteMask(n, j)` (42_commands.md R134). -/
def byteMask (n j : Nat) : Word :=
  if bytesInWord n j = 8 then 0xFFFFFFFFFFFFFFFF#64
  else (1#64 <<< (8 * bytesInWord n j)) - 1#64

/-- The latched block `Wm[0..3]` (42_commands.md R134). -/
def maskedBlock (blk : Quad) (n : Nat) : Quad :=
  ⟨blk.w0 &&& byteMask n 0, blk.w1 &&& byteMask n 1, blk.w2 &&& byteMask n 2,
   blk.w3 &&& byteMask n 3⟩

/-- The bit length FINAL latches, `(LEN << 3)[63:0]` (42_commands.md R138). -/
def bitLength (len : BitVec 64) : Word := len <<< 3

/-! ## The digest views -/

/-- What the digest registers hold of four state words, validity apart (10_state.md R29). -/
def digestWord (q : Quad) : Fin 3 → Word
  | 0 => q.w0
  | 1 => q.w1
  | 2 => (q.w2.extractLsb' 0 32).setWidth 64

/-- `DigestRead(j)` (43_register_access.md R161). -/
def digestView (s : State) (j : Fin 3) : Word :=
  if digestValid s then digestWord s.S j else 0#64

end Sys2Proof.Machine
end

