-- ==== Sys2Proof/Machine/Ops.lean ====
section
/-! DEFINITION. The shared operations: recording an error, answering a read, the two halves of a
command, and reset. -/

namespace Sys2Proof.Machine

/-- `raise E` (60_exceptions.md R202): the first error since ERR was cleared is recorded, a later
one is not. The fault mark is set by every raise (93_implementation_defined.md U2). This is all an
error does: there is no vector, no saved state and no return (R201). -/
def raise (e : ErrorKind) (s : State) : State :=
  { s with err := if s.err = 0#4 then e.code else s.err, faulted := true }

/-- A read returns `v` on `bus_rdata` (43_register_access.md R150). -/
def respond (v : Word) (s : State) : State := { s with reads := v :: s.reads }

/-- A read returns a free 64-bit value, independent on every read (43_register_access.md R160). -/
def respondAny (s : State) : State :=
  { s with reads := Config.anyWord s.draws :: s.reads, draws := s.draws + 1 }

/-- A read in error returns 0 (43_register_access.md R164, R166). -/
def badRead (s : State) : State := respond 0#64 (raise .badAccess s)

/-- A write in error returns nothing (43_register_access.md R164 to R166). -/
def badWrite (s : State) : State := raise .badAccess s

/-- The latch of an accepted command: `PEND` and `BUSY <- 1` (42_commands.md R130). -/
def accept (p : Pend) (s : State) : State := { s with pend := p, busy := true }

/-- The end of a command: the state words, `PEND <- none`, `BUSY <- 0` (42_commands.md R130, R141). -/
def complete (q : Quad) (s : State) : State := { s with S := q, pend := .none, busy := false }

/-- A rising clock edge with `rst = 1` (70_reset_and_hazards.md R230): every element of the core
takes its value of 10_state.md R36. What is not the core's stays: the configuration, the level of
the port, the events to come, the values already read, the fault mark and the count of free draws.
DEDUCED from R36 and 93_implementation_defined.md U2. Log entries 5 and 9. -/
def coreReset (s : State) : State :=
  { State.resetOf s.cfg with
    rst := s.rst, faulted := s.faulted, inputs := s.inputs, reads := s.reads, draws := s.draws }

end Sys2Proof.Machine
end

