-- ==== Sys2Proof/Machine/BadAccess.lean ====
section
/-! DEFINITION. The transactions that raise BAD_ACCESS: writes to read-only registers
(43_register_access.md R165), the reserved offset 0x78 (R166) and misaligned offsets (R164). A read
returns 0; no register is partly read or written. -/

namespace Sys2Proof.Machine

/-- WR LEN, read-only (43_register_access.md R165). -/
def execWrLen (_v : Word) (s : State) : Host.Outcome State Fault Refusal := .next (badWrite s)

/-- WR PARAMS, read-only (43_register_access.md R165). -/
def execWrParams (_v : Word) (s : State) : Host.Outcome State Fault Refusal := .next (badWrite s)

/-- WR STATE0, read-only (43_register_access.md R165). -/
def execWrState0 (_v : Word) (s : State) : Host.Outcome State Fault Refusal := .next (badWrite s)

/-- WR STATE1, read-only (43_register_access.md R165). -/
def execWrState1 (_v : Word) (s : State) : Host.Outcome State Fault Refusal := .next (badWrite s)

/-- WR STATE2, read-only (43_register_access.md R165). -/
def execWrState2 (_v : Word) (s : State) : Host.Outcome State Fault Refusal := .next (badWrite s)

/-- WR STATE3, read-only (43_register_access.md R165). -/
def execWrState3 (_v : Word) (s : State) : Host.Outcome State Fault Refusal := .next (badWrite s)

/-- WR DIGEST0, read-only (43_register_access.md R165). -/
def execWrDigest0 (_v : Word) (s : State) : Host.Outcome State Fault Refusal := .next (badWrite s)

/-- WR DIGEST1, read-only (43_register_access.md R165). -/
def execWrDigest1 (_v : Word) (s : State) : Host.Outcome State Fault Refusal := .next (badWrite s)

/-- WR DIGEST2, read-only (43_register_access.md R165). -/
def execWrDigest2 (_v : Word) (s : State) : Host.Outcome State Fault Refusal := .next (badWrite s)

/-- A read of 0x78 (43_register_access.md R166). -/
def execRdReserved (s : State) : Host.Outcome State Fault Refusal := .next (badRead s)

/-- A write of 0x78 (43_register_access.md R166). -/
def execWrReserved (_v : Word) (s : State) : Host.Outcome State Fault Refusal := .next (badWrite s)

/-- `Misaligned(we)` (43_register_access.md R164): `d` is the write's data, or none for a read. -/
def misaligned (d : Option Word) (s : State) : State :=
  match d with
  | none => badRead s
  | some _ => badWrite s

/-- A misaligned transaction with `addr[0] = 1` (43_register_access.md R164). -/
def execMisaligned0 (d : Option Word) (_a : Offset) (s : State) :
    Host.Outcome State Fault Refusal := .next (misaligned d s)

/-- A misaligned transaction with `addr[1] = 1` (43_register_access.md R164). -/
def execMisaligned1 (d : Option Word) (_a : Offset) (s : State) :
    Host.Outcome State Fault Refusal := .next (misaligned d s)

/-- A misaligned transaction with `addr[2] = 1` (43_register_access.md R164). -/
def execMisaligned2 (d : Option Word) (_a : Offset) (s : State) :
    Host.Outcome State Fault Refusal := .next (misaligned d s)

end Sys2Proof.Machine
end

