-- ==== Sys2Proof/Machine/Commands.lean ====
section
/-! DEFINITION. The commands (42_commands.md R130 to R142): the checks of a CMD write in their order,
and acceptance. Each command's meaning is that of writing its word to CMD. -/

namespace Sys2Proof.Machine

/-- The first check of a CMD write: `if BUSY = 1: raise BUSY_ERR` (42_commands.md R131). -/
def unlessBusy (k : State → State) (s : State) : State :=
  if s.busy then raise .busyErr s else k s

/-- `NopAccept`: nothing (42_commands.md R137). -/
def nopAccept (s : State) : State := s

/-- `InitAccept` (42_commands.md R132). -/
def initAccept (s : State) : State :=
  accept .init { s with len := 0#64, phase := phaseOpen }

/-- `AbsorbAccept(n)` (42_commands.md R134, R135). -/
def absorbAccept (n : Nat) (s : State) : State :=
  accept (.absorb (maskedBlock s.blk n))
    { s with len := s.len + BitVec.ofNat 64 n, phase := phaseAfterAbsorb n }

/-- `FinalAccept` (42_commands.md R138). -/
def finalAccept (s : State) : State :=
  accept (.final (bitLength s.len)) { s with phase := phaseDone }

/-- The checks of ABSORB once the port is idle and the word is legal (42_commands.md R131):
`LEN + n` is computed exactly. -/
def absorbChecked (n : Nat) (s : State) : State :=
  if s.phase ≠ phaseOpen then raise .sequence s
  else if s.len.toNat + n > lenMax then raise .lenOvf s
  else absorbAccept n s

/-- The check of FINAL (42_commands.md R131). -/
def finalChecked (s : State) : State :=
  if s.phase = phaseDone then raise .sequence s else finalAccept s

/-- A legal command once the port is idle (42_commands.md R131). -/
def runCommand (c : Command) (s : State) : State :=
  match c with
  | .nop => nopAccept s
  | .init => initAccept s
  | .absorb nm1 => absorbChecked (byteCount nm1) s
  | .final => finalChecked s

/-- `CmdWrite(v)` (42_commands.md R131): BUSY, then the word, then the command's own checks. -/
def cmdWrite (v : Word) (s : State) : State :=
  unlessBusy
    (fun s =>
      match decodeCommand v with
      | .error _ => raise .illegalCmd s
      | .ok c => runCommand c s)
    s

/-- NOP: the word 0 written to CMD (42_commands.md R137). -/
def execNop (s : State) : Host.Outcome State Fault Refusal := .next (unlessBusy nopAccept s)

/-- INIT: the word 1 written to CMD (42_commands.md R132). -/
def execInit (s : State) : Host.Outcome State Fault Refusal := .next (unlessBusy initAccept s)

/-- ABSORB n: the word `2 | (n-1) << 8` written to CMD (42_commands.md R135). -/
def execAbsorb (nm1 : BitVec 5) (s : State) : Host.Outcome State Fault Refusal :=
  .next (unlessBusy (absorbChecked (byteCount nm1)) s)

/-- FINAL: the word 3 written to CMD (42_commands.md R138). -/
def execFinal (s : State) : Host.Outcome State Fault Refusal := .next (unlessBusy finalChecked s)

/-- WR CMD: any word written to CMD (43_register_access.md R151). -/
def execWrCmd (v : Word) (s : State) : Host.Outcome State Fault Refusal := .next (cmdWrite v s)

end Sys2Proof.Machine
end

