-- ==== Sys2Proof/Machine/Registers.lean ====
section
/-! DEFINITION. Reads and writes of the registers other than CMD's write (43_register_access.md R151
to R161). -/

namespace Sys2Proof.Machine

/-- RD CMD returns 0: CMD has no storage (43_register_access.md R151). -/
def execRdCmd (s : State) : Host.Outcome State Fault Refusal := .next (respond 0#64 s)

/-- RD STATUS (43_register_access.md R152). -/
def execRdStatus (s : State) : Host.Outcome State Fault Refusal := .next (respond (statusWord s) s)

/-- `StatusWrite(v): ERR <- 0`, the value ignored (43_register_access.md R153). -/
def clearErr (s : State) : State := { s with err := 0#4 }

/-- WR STATUS (43_register_access.md R153). -/
def execWrStatus (_v : Word) (s : State) : Host.Outcome State Fault Refusal := .next (clearErr s)

/-- RD LEN (43_register_access.md R154). -/
def execRdLen (s : State) : Host.Outcome State Fault Refusal := .next (respond s.len s)

/-- RD PARAMS (43_register_access.md R155). -/
def execRdParams (s : State) : Host.Outcome State Fault Refusal :=
  .next (respond (paramsWord s.cfg) s)

/-- A read of `BLK[j]` (43_register_access.md R156). -/
def blkRead (j : Fin 4) (s : State) : State := respond (s.blk.word j) s

/-- A write of `BLK[j]`, all 64 bits (43_register_access.md R157). -/
def blkWrite (j : Fin 4) (v : Word) (s : State) : State := { s with blk := s.blk.setWord j v }

/-- `StateRead(j) = (BUSY = 0) ? S[j] : ANY64` (43_register_access.md R160). -/
def stateRead (j : Fin 4) (s : State) : State :=
  if s.busy then respondAny s else respond (s.S.word j) s

/-- A read of DIGESTj (43_register_access.md R161). -/
def digestRead (j : Fin 3) (s : State) : State := respond (digestView s j) s

/-- RD BLK0 (43_register_access.md R156). -/
def execRdBlk0 (s : State) : Host.Outcome State Fault Refusal := .next (blkRead 0 s)

/-- RD BLK1 (43_register_access.md R156). -/
def execRdBlk1 (s : State) : Host.Outcome State Fault Refusal := .next (blkRead 1 s)

/-- RD BLK2 (43_register_access.md R156). -/
def execRdBlk2 (s : State) : Host.Outcome State Fault Refusal := .next (blkRead 2 s)

/-- RD BLK3 (43_register_access.md R156). -/
def execRdBlk3 (s : State) : Host.Outcome State Fault Refusal := .next (blkRead 3 s)

/-- WR BLK0 (43_register_access.md R157). -/
def execWrBlk0 (v : Word) (s : State) : Host.Outcome State Fault Refusal := .next (blkWrite 0 v s)

/-- WR BLK1 (43_register_access.md R157). -/
def execWrBlk1 (v : Word) (s : State) : Host.Outcome State Fault Refusal := .next (blkWrite 1 v s)

/-- WR BLK2 (43_register_access.md R157). -/
def execWrBlk2 (v : Word) (s : State) : Host.Outcome State Fault Refusal := .next (blkWrite 2 v s)

/-- WR BLK3 (43_register_access.md R157). -/
def execWrBlk3 (v : Word) (s : State) : Host.Outcome State Fault Refusal := .next (blkWrite 3 v s)

/-- RD STATE0 (43_register_access.md R160). -/
def execRdState0 (s : State) : Host.Outcome State Fault Refusal := .next (stateRead 0 s)

/-- RD STATE1 (43_register_access.md R160). -/
def execRdState1 (s : State) : Host.Outcome State Fault Refusal := .next (stateRead 1 s)

/-- RD STATE2 (43_register_access.md R160). -/
def execRdState2 (s : State) : Host.Outcome State Fault Refusal := .next (stateRead 2 s)

/-- RD STATE3 (43_register_access.md R160). -/
def execRdState3 (s : State) : Host.Outcome State Fault Refusal := .next (stateRead 3 s)

/-- RD DIGEST0 (43_register_access.md R161). -/
def execRdDigest0 (s : State) : Host.Outcome State Fault Refusal := .next (digestRead 0 s)

/-- RD DIGEST1 (43_register_access.md R161). -/
def execRdDigest1 (s : State) : Host.Outcome State Fault Refusal := .next (digestRead 1 s)

/-- RD DIGEST2 (43_register_access.md R161). -/
def execRdDigest2 (s : State) : Host.Outcome State Fault Refusal := .next (digestRead 2 s)

end Sys2Proof.Machine
end

