-- ==== Sys2Proof/Machine/Dispatch.lean ====
section
/-! DEFINITION. The dispatch: one arm for each row of the opcode table (43_register_access.md R150;
42_commands.md R131). -/

namespace Sys2Proof.Machine

def exec (i : Instr) (s : State) : Host.Outcome State Fault Refusal :=
  match i with
  | .nop => Sys2Proof.Machine.execNop s
  | .init => Sys2Proof.Machine.execInit s
  | .absorb nm1 => Sys2Proof.Machine.execAbsorb nm1 s
  | .final => Sys2Proof.Machine.execFinal s
  | .wrCmd v => Sys2Proof.Machine.execWrCmd v s
  | .rdCmd => Sys2Proof.Machine.execRdCmd s
  | .rdStatus => Sys2Proof.Machine.execRdStatus s
  | .wrStatus v => Sys2Proof.Machine.execWrStatus v s
  | .rdLen => Sys2Proof.Machine.execRdLen s
  | .rdParams => Sys2Proof.Machine.execRdParams s
  | .rdBlk0 => Sys2Proof.Machine.execRdBlk0 s
  | .rdBlk1 => Sys2Proof.Machine.execRdBlk1 s
  | .rdBlk2 => Sys2Proof.Machine.execRdBlk2 s
  | .rdBlk3 => Sys2Proof.Machine.execRdBlk3 s
  | .wrBlk0 v => Sys2Proof.Machine.execWrBlk0 v s
  | .wrBlk1 v => Sys2Proof.Machine.execWrBlk1 v s
  | .wrBlk2 v => Sys2Proof.Machine.execWrBlk2 v s
  | .wrBlk3 v => Sys2Proof.Machine.execWrBlk3 v s
  | .rdState0 => Sys2Proof.Machine.execRdState0 s
  | .rdState1 => Sys2Proof.Machine.execRdState1 s
  | .rdState2 => Sys2Proof.Machine.execRdState2 s
  | .rdState3 => Sys2Proof.Machine.execRdState3 s
  | .rdDigest0 => Sys2Proof.Machine.execRdDigest0 s
  | .rdDigest1 => Sys2Proof.Machine.execRdDigest1 s
  | .rdDigest2 => Sys2Proof.Machine.execRdDigest2 s
  | .wrLen v => Sys2Proof.Machine.execWrLen v s
  | .wrParams v => Sys2Proof.Machine.execWrParams v s
  | .wrState0 v => Sys2Proof.Machine.execWrState0 v s
  | .wrState1 v => Sys2Proof.Machine.execWrState1 v s
  | .wrState2 v => Sys2Proof.Machine.execWrState2 v s
  | .wrState3 v => Sys2Proof.Machine.execWrState3 v s
  | .wrDigest0 v => Sys2Proof.Machine.execWrDigest0 v s
  | .wrDigest1 v => Sys2Proof.Machine.execWrDigest1 v s
  | .wrDigest2 v => Sys2Proof.Machine.execWrDigest2 v s
  | .rdReserved => Sys2Proof.Machine.execRdReserved s
  | .wrReserved v => Sys2Proof.Machine.execWrReserved v s
  | .misaligned0 d a => Sys2Proof.Machine.execMisaligned0 d a s
  | .misaligned1 d a => Sys2Proof.Machine.execMisaligned1 d a s
  | .misaligned2 d a => Sys2Proof.Machine.execMisaligned2 d a s

end Sys2Proof.Machine
end

