-- ==== Sys2Proof/Machine/Permutation.lean ====
section
/-! DEFINITION. The ARX permutation (40_permutation.md R100 to R106), over any configuration. -/

namespace Sys2Proof.Machine

/-- `rotl64(x, r) = ((x << r) | (x >> (64 - r)))[63:0]` (40_permutation.md R100). It is asked only for
`r` in 1 to 63: no configuration holds another amount (log entry 16). -/
def rotl64 (x : Word) (r : Nat) : Word := (x <<< r) ||| (x >>> (64 - r))

/-- `rotr64(x, r) = rotl64(x, 64 - r)` (40_permutation.md R106). -/
def rotr64 (x : Word) (r : Nat) : Word := rotl64 x (64 - r)

/-- The pair of round `i`, `CFG.ROT[i mod ROT_LEN]` (40_permutation.md R101). The table of a
configuration is never empty, so the default of the lookup is never taken. -/
def rotPair (c : Config) (i : Nat) : Nat × Nat := c.raw.rot.getD (i % c.raw.rot.length) (1, 1)

/-- Step 5 of a round: swap the configured pair of words (40_permutation.md R102, R104). -/
def swapWords (sel : SwapSel) (q : Quad) : Quad :=
  match sel with
  | .swap01 => ⟨q.w1, q.w0, q.w2, q.w3⟩
  | .swap23 => ⟨q.w0, q.w1, q.w3, q.w2⟩

/-- Steps 1 to 4 of a round (40_permutation.md R102): steps 3 and 4 read the sums of steps 1 and 2. -/
def arx (r : Nat × Nat) (q : Quad) : Quad :=
  let a := q.w0 + q.w2
  let b := q.w1 + q.w3
  ⟨a, b, rotl64 q.w2 r.1 ^^^ a, rotl64 q.w3 r.2 ^^^ b⟩

/-- The inverse of steps 1 to 4 (40_permutation.md R106). -/
def invArx (r : Nat × Nat) (q : Quad) : Quad :=
  let d := rotr64 (q.w3 ^^^ q.w1) r.2
  let c := rotr64 (q.w2 ^^^ q.w0) r.1
  ⟨q.w0 - c, q.w1 - d, c, d⟩

/-- `Round(S, i)` (40_permutation.md R102). -/
def mixRound (c : Config) (q : Quad) (i : Nat) : Quad := swapWords c.raw.swapSel (arx (rotPair c i) q)

/-- `InvRound(S, i)` (40_permutation.md R106). -/
def invRound (c : Config) (q : Quad) (i : Nat) : Quad :=
  invArx (rotPair c i) (swapWords c.raw.swapSel q)

/-- `Mix(S, R)`: rounds 0 to `R - 1` in order (40_permutation.md R103). -/
def mix (c : Config) (q : Quad) : Nat → Quad
  | 0 => q
  | r + 1 => mixRound c (mix c q r) r

/-- The inverse of `Mix(S, R)`: the inverse rounds `R - 1` down to 0 (40_permutation.md R106). -/
def invMix (c : Config) (q : Quad) : Nat → Quad
  | 0 => q
  | r + 1 => invMix c (invRound c q r) r

end Sys2Proof.Machine
end

