-- ==== Sys2Proof/Machine/Hash.lean ====
section
/-! DEFINITION. The hash function the core computes, `TentHash_CFG` (41_hash_algorithm.md R110 to
R119), as a pure function of the message. -/

namespace Sys2Proof.Machine

/-- Absorbing one block: XOR the padded block, then `Mix` with the block round count
(41_hash_algorithm.md R112 to R114). -/
def absorbWords (c : Config) (q w : Quad) : Quad := mix c (q.xor w) c.raw.roundsBlock

/-- The loop of 41_hash_algorithm.md R119: while bytes remain, absorb the next `min(rest, 32)`. The
first argument bounds the number of blocks. -/
def absorbLoop (c : Config) : Nat → Quad → List Byte → Quad
  | 0, q, _ => q
  | _, q, [] => q
  | k + 1, q, b :: m =>
    absorbLoop c k (absorbWords c q (quadOfBytes (padBlock ((b :: m).take 32)))) ((b :: m).drop 32)

/-- The state after a message's blocks, from the initial constants (41_hash_algorithm.md R110 to
R114). A message has no more blocks than bytes. -/
def absorbMessage (c : Config) (m : List Byte) : Quad := absorbLoop c m.length c.raw.iv m

/-- Length injection and the final permutation (41_hash_algorithm.md R115, R116). -/
def finalize (c : Config) (q : Quad) (lb : Word) : Quad :=
  mix c { q with w0 := q.w0 ^^^ lb } c.raw.roundsFinal

/-- The final state of a message (41_hash_algorithm.md R119): `8 * L` as a 64-bit value. -/
def finalState (c : Config) (m : List Byte) : Quad :=
  finalize c (absorbMessage c m) (BitVec.ofNat 64 (8 * m.length))

/-- Digest extraction: the first 20 bytes of the state's (41_hash_algorithm.md R117). -/
def digestBytes (q : Quad) : List Byte := (quadBytes q).take 20

/-- `TentHash_CFG(m)`; no digest beyond the length bound (41_hash_algorithm.md R118, R119). -/
def tentHash (c : Config) (m : List Byte) : Option (List Byte) :=
  if m.length ≤ lenMax then some (digestBytes (finalState c m)) else none

end Sys2Proof.Machine
end

