-- ==== Sys2Proof/Machine/Engine.lean ====
section
/-! DEFINITION. The Engine's completion of a pending command (42_commands.md R133, R136, R139, R141). -/

namespace Sys2Proof.Machine

/-- `InitComplete` (42_commands.md R133). -/
def initComplete (s : State) : State := complete s.cfg.raw.iv s

/-- `AbsorbComplete(Wm)` (42_commands.md R136). -/
def absorbComplete (wm : Quad) (s : State) : State := complete (absorbWords s.cfg s.S wm) s

/-- `FinalComplete(LB)` (42_commands.md R139). -/
def finalComplete (lb : Word) (s : State) : State := complete (finalize s.cfg s.S lb) s

/-- `EngineStep` (42_commands.md R141): one atomic step, which "cannot fail or raise an error". With
nothing pending the Engine has no step and the core idles. Log entries 4 and 10. -/
def engineStep (s : State) : State :=
  match s.pend with
  | .none => s
  | .init => initComplete s
  | .absorb wm => absorbComplete wm s
  | .final lb => finalComplete lb s

end Sys2Proof.Machine
end

