-- ==== Sys2Proof/Machine/Fetch.lean ====
section
/-! DEFINITION. What each event does around an instruction: where a transaction is taken from, the
edges of reset, and the Engine's turn. -/

namespace Sys2Proof.Machine

/-- The state whose next event has been taken from the front of `inputs`. -/
def consume (s : State) : State := { s with inputs := s.inputs.tail }

/-- The port `rst` takes a level; the edge with `rst = 1` resets the core (70_reset_and_hazards.md
R230). -/
def driveRst (level : Bool) (s : State) : State :=
  if level then coreReset { s with rst := true } else { s with rst := false }

/-- An edge with no transaction taken: reset while `rst = 1` (70_reset_and_hazards.md R230), else the
Engine's step (42_commands.md R141). -/
def engineTurn (s : State) : State := if s.rst then coreReset s else engineStep s

/-- The state with a transaction as its next event and the port open: the reset line is low. -/
def presented (t : Transaction) (s : State) : State :=
  { s with rst := false, inputs := .transaction t :: s.inputs }

end Sys2Proof.Machine
end

