-- ==== Sys2Proof/Machine/Step.lean ====
section
/-! DEFINITION. One step of the machine: the next event of `inputs` happens, or, with none left, the
Engine takes its step. -/

namespace Sys2Proof.Machine

/-- One step. The core has no program counter and fetches nothing (10_state.md R35, 20_memory.md
R63): a transaction is run when the Host presents it, as one atomic step (R60). While `rst = 1` the
port takes none (70_reset_and_hazards.md R232). Log entries 3 to 6. -/
def step (s : State) : Host.Outcome State Fault Refusal :=
  match s.inputs with
  | [] => .next (engineTurn s)
  | .engine :: _ => .next (engineTurn (consume s))
  | .rst level :: _ => .next (driveRst level (consume s))
  | .transaction t :: _ =>
    if s.rst then .fault .transactionDuringReset else exec (decode t) (consume s)

/-- The state in which the next step runs the instruction of an opcode-table row: its transaction is
the next event, and `rst` is low. A command word is a write of CMD. Log entries 3, 13 and 14. -/
def State.withFetchWord (s : State) (nbits w : Nat) : State :=
  presented (Encoded.ofTable nbits w).transaction s

end Sys2Proof.Machine
end

