-- ==== Sys2Proof/Machine/HostProgram.lean ====
section
/-! DEFINITION. The Host's side of the port: lines of the assembler syntax (30_encoding.md R78), the
expansions of its pseudo-instructions (R79), the host that runs the lines, branches and all, and the
safe host sequence for one hash (70_reset_and_hazards.md R242). Labels and BNZ are the host's own
control flow, "not transactions of the core" (R78): they touch no State (log entry 20). -/

namespace Sys2Proof.Machine

/-- A register name of the assembler, or a raw offset `@0xNN` (30_encoding.md R78). -/
inductive RegName where
  | cmd
  | status
  | len
  | params
  | blk (j : Fin 4)
  | state (j : Fin 4)
  | digest (j : Fin 3)
  | raw (a : Offset)
deriving DecidableEq, Repr

/-- The offset of a register (10_state.md R31). -/
def RegName.offset : RegName → Offset
  | .cmd => 0x00#7
  | .status => 0x08#7
  | .len => 0x10#7
  | .params => 0x18#7
  | .blk j => 0x20#7 + BitVec.ofNat 7 (8 * j.val)
  | .state j => 0x40#7 + BitVec.ofNat 7 (8 * j.val)
  | .digest j => 0x60#7 + BitVec.ofNat 7 (8 * j.val)
  | .raw a => a

/-- A line of a host program (30_encoding.md R78). DESIGN CHOICE: labels are numbers, so that a fresh
one is easy to name. Safe. Log entry 20. -/
inductive Line where
  /-- `WR <reg>, <imm64>`. -/
  | wr (r : RegName) (v : Word)
  /-- `RD <reg> -> <name>`, or `RD <reg>`. -/
  | rd (r : RegName) (name : Option String)
  /-- `<label>:`. -/
  | label (l : Nat)
  /-- `BNZ <name>, <bit>, <label>`. -/
  | bnz (name : String) (bit : Nat) (l : Nat)
deriving DecidableEq, Repr

/-- The encoding of a line, `W <offset> <value64>` or `R <offset>`; labels and BNZ have none
(30_encoding.md R78, R80). -/
def Line.transaction : Line → Option Transaction
  | .wr r v => some (.write r.offset v)
  | .rd r _ => some (.read r.offset)
  | .label _ | .bnz _ _ _ => none

/-- The pseudo-instructions (30_encoding.md R79). POLL carries its fresh label. -/
inductive Pseudo where
  | nop
  | init
  | absorb (nm1 : BitVec 5)
  | final
  | clrerr
  | poll (l : Nat)
  | ldblk (bytes : List Byte)
  | rddigest
  | chkerr
deriving DecidableEq, Repr

/-- The lines of LDBLK: the bytes, zero-padded to 32, packed by `le64` (30_encoding.md R79). DESIGN
CHOICE: of more than the 32 bytes R79 admits, the first 32 are loaded and the rest is dropped. Unsafe
for a claim about such an LDBLK. Log entry 20. -/
def loadBlock (b : List Byte) : List Line :=
  let q := quadOfBytes (padBlock b)
  [.wr (.blk 0) q.w0, .wr (.blk 1) q.w1, .wr (.blk 2) q.w2, .wr (.blk 3) q.w3]

/-- One pass of POLL, its lines below the label: read STATUS into `t`, and go back while bit 0 is 1.
DESIGN CHOICE: R79 asks for a fresh label and a "host temporary `t`"; the name is "t" in every POLL,
so it shadows an earlier value of that name. Unsafe for a claim about a program that reads into "t"
itself. Log entry 20. -/
def pollPass (l : Nat) : List Line := [.rd .status (some "t"), .bnz "t" 0 l]

/-- The expansion of a pseudo-instruction (30_encoding.md R79). -/
def Pseudo.lines : Pseudo → List Line
  | .nop => [.wr .cmd 0x0]
  | .init => [.wr .cmd 0x1]
  | .absorb nm1 => [.wr .cmd (0x2 + (nm1.setWidth 64 <<< 8))]
  | .final => [.wr .cmd 0x3]
  | .clrerr => [.wr .status 0x0]
  | .poll l => .label l :: pollPass l
  | .ldblk bytes => loadBlock bytes
  | .rddigest => [.rd (.digest 0) (some "d0"), .rd (.digest 1) (some "d1"), .rd (.digest 2) (some "d2")]
  | .chkerr => [.rd .status (some "s")]

/-- The host's test of CHKERR on the STATUS it read, `s[11:8] = 0` (30_encoding.md R79). -/
def errIsZero (status : Word) : Bool := status.extractLsb' 8 4 == 0#4

/-! ## The host that runs the lines -/

/-- A host in the middle of its program. -/
structure Driver where
  /-- The whole program, where labels are looked up. -/
  prog : List Line
  /-- The lines still to run from here. -/
  todo : List Line
  /-- The values read, by name, the newest first. -/
  env : List (String × Word)
deriving DecidableEq, Repr

/-- The lines below a label, none where it is not there. DESIGN CHOICE: where the label stands more
than once, which 30_encoding.md R78 is silent on, the first one counts. Unsafe for a claim about such
a program. Log entry 20. -/
def below (l : Nat) : List Line → Option (List Line)
  | [] => none
  | .label k :: ls => if k = l then some ls else below l ls
  | .wr _ _ :: ls | .rd _ _ :: ls | .bnz _ _ _ :: ls => below l ls

/-- The core's step with an event put before all that is to come. -/
def offer (e : Event) (s : State) : Option State :=
  match step { s with inputs := e :: s.inputs } with
  | .next t => some t
  | .fault _ | .refused _ => none

/-- The environment after a read into a name, or into none. -/
def remember (name : Option String) (v : Word) (env : List (String × Word)) : List (String × Word) :=
  match name with
  | none => env
  | some n => (n, v) :: env

/-- The host's turn: it runs one line (30_encoding.md R78). A label and a BNZ leave the core alone. It
has no turn at the end of its program, nor while the port takes no transaction. DESIGN CHOICE: it has
none either where a BNZ names a value never read, nor where it must go to a label that is not there
(safe); a bit number of 64 or more, which no 64-bit value has, counts as a bit that is 0, so the host
goes on below the BNZ (unsafe for a claim about such a BNZ). Log entry 20. -/
def Driver.turn (d : Driver) (s : State) : Option (Driver × State) :=
  match d.todo with
  | [] => none
  | .wr r v :: ls => do
    let t ← offer (.transaction (.write r.offset v)) s
    return ({ d with todo := ls }, t)
  | .rd r name :: ls => do
    let t ← offer (.transaction (.read r.offset)) s
    return ({ d with todo := ls, env := remember name (t.reads.headD 0#64) d.env }, t)
  | .label _ :: ls => some ({ d with todo := ls }, s)
  | .bnz name bit l :: ls => do
    let v ← d.env.lookup name
    if v.getLsbD bit then
      let ls' ← below l d.prog
      return ({ d with todo := ls' }, s)
    else
      return ({ d with todo := ls }, s)

/-- Whose turn it is (00_scope.md R9). -/
inductive Turn where
  | host
  | engine
deriving DecidableEq, Repr

/-- Host and Engine together, in a given order of turns. -/
def together : List Turn → Driver × State → Option (Driver × State)
  | [], x => some x
  | .host :: ts, x => do together ts (← x.1.turn x.2)
  | .engine :: ts, x => do together ts (x.1, ← offer .engine x.2)

/-! ## The safe host sequence -/

/-- The transactions of a pseudo-instruction, each of its lines taken once, as events. -/
def Pseudo.events (p : Pseudo) : List Event :=
  (p.lines.filterMap Line.transaction).map .transaction

/-- The events of a POLL that finds BUSY = 1 in `k` passes: the Engine completes after them, and the
next pass, the last, reads BUSY = 0 (30_encoding.md R79, R80; 70_reset_and_hazards.md R235). -/
def pollEvents (l k : Nat) : List Event :=
  (List.replicate k (Pseudo.poll l).events).flatten ++ [.engine] ++ (Pseudo.poll l).events

/-- The events of a program of pseudo-instructions. The list says of each POLL in turn how many of its
passes find BUSY = 1, since latencies may differ from command to command (00_scope.md R8). -/
def issue : List Nat → List Pseudo → List Event
  | _, [] => []
  | ks, .poll l :: ps => pollEvents l (ks.headD 0) ++ issue ks.tail ps
  | ks, p :: ps => p.events ++ issue ks ps

/-- `LDBLK b_k ; ABSORB n_k ; POLL` for each block (70_reset_and_hazards.md R242), the blocks cut as
41_hash_algorithm.md R111 says. The first argument bounds their number, the second is the next fresh
label. -/
def blocksProgram : Nat → Nat → List Byte → List Pseudo
  | 0, _, _ => []
  | _, _, [] => []
  | f + 1, l, b :: m =>
    let blk := (b :: m).take 32
    .ldblk blk :: .absorb (BitVec.ofNat 5 (blk.length - 1)) :: .poll l ::
      blocksProgram f (l + 1) ((b :: m).drop 32)

/-- The safe host sequence for one hash of `m` (70_reset_and_hazards.md R242): with `INIT ; POLL`, or
without them after a fresh reset. -/
def safeProgram (withInit : Bool) (m : List Byte) : List Pseudo :=
  [.clrerr] ++ (if withInit then [.init, .poll 0] else []) ++ blocksProgram m.length 1 m
    ++ [.final, .poll (m.length + 1), .chkerr, .rddigest]

/-- The events of the safe host sequence, for the polls each of its commands takes. -/
def safeSequence (withInit : Bool) (ks : List Nat) (m : List Byte) : List Event :=
  issue ks (safeProgram withInit m)

end Sys2Proof.Machine
end

