-- ==== Sys2Proof/Safety.lean ====
section
/-! DEFINITION. What counts as a sound state and a sound run: the invariants of 10_state.md R37, a
run without errors, and the relation between a core and the message it has absorbed
(42_commands.md R143). -/

namespace Sys2Proof.Machine

/-- The six invariants of 10_state.md R37. -/
structure State.Inv (s : State) : Prop where
  /-- 1. `BUSY = 0` if and only if `PEND = none`. -/
  busy_iff : s.busy = false ↔ s.pend = .none
  /-- 2. `LEN <= 2^61 - 1`. -/
  len_le : s.len.toNat ≤ lenMax
  /-- 3. `PHASE = OPEN` implies `LEN mod 32 = 0`. -/
  open_len : s.phase = phaseOpen → s.len.toNat % 32 = 0
  /-- 4. `PHASE = TAIL` implies `LEN mod 32 != 0`. -/
  tail_len : s.phase = phaseTail → s.len.toNat % 32 ≠ 0
  /-- 5. `PHASE != 3`. -/
  phase_ne : s.phase ≠ 3#2
  /-- 6. `ERR` is one of the codes 0 to 5. -/
  err_le : s.err.toNat ≤ 5

/-- A recorded error implies the fault mark: ERR is written by `raise` alone (10_state.md R25), which
sets the mark (93_implementation_defined.md U2). -/
def State.Marked (s : State) : Prop := s.err ≠ 0#4 → s.faulted = true

/-- The core can take a command: idle, and not in reset (70_reset_and_hazards.md R232, R235). -/
def State.Ready (s : State) : Prop := s.busy = false ∧ s.pend = .none ∧ s.rst = false

/-- The premise "no fault" of 93_implementation_defined.md U2 and U18: nothing was rejected. -/
def State.NoFault (s : State) : Prop := s.faulted = false

/-- No step of the next `k` raises an error, whatever was raised before: the mark, lowered for the
run, is not set by it. The mark decides nothing, so the run is otherwise the same. -/
def State.RaisesNone (k : Nat) (s : State) : Prop :=
  ∃ u, core.run k { s with faulted := false } = .next u ∧ State.NoFault u

/-- The next step is a rising clock edge with `rst = 1` (70_reset_and_hazards.md R230). -/
def State.resetEdge (s : State) : Bool :=
  match s.inputs with
  | [] | .engine :: _ => s.rst
  | .rst level :: _ => level
  | .transaction _ :: _ => false

/-- The 20 bytes a host recovers from three digest words, `unle64(d0) ++ unle64(d1) ++
unle64(d2)[0..3]` (42_commands.md R143, 20_memory.md R53). -/
def hostDigest (d0 d1 d2 : Word) : List Byte := unle64 d0 ++ unle64 d1 ++ (unle64 d2).take 4

/-! ## The message a core has absorbed -/

/-- The state words once the pending operation, if there is one, has completed. -/
def settled (s : State) : Quad := (engineStep s).S

/-- The core has absorbed exactly the message `m` since its last INIT or reset, and if its phase is
DONE it has finalized it. This is the state R143 of 42_commands.md speaks of, at every point of a
hash and at every interleaving. -/
structure Tracks (m : List Byte) (s : State) : Prop where
  busy_iff : s.busy = false ↔ s.pend = .none
  len_eq : s.len.toNat = m.length
  bound : m.length ≤ lenMax
  phase_ne : s.phase ≠ 3#2
  open_len : s.phase = phaseOpen → m.length % 32 = 0
  absorbed : s.phase ≠ phaseDone → settled s = absorbMessage s.cfg m
  finalized : s.phase = phaseDone → settled s = finalState s.cfg m

/-- The message after a CMD write of `v`: an accepted INIT starts the empty message, an accepted
ABSORB appends the first `n` bytes of BLK (10_state.md R26, 42_commands.md R131 to R135). -/
def messageAfterCmd (v : Word) (s : State) (m : List Byte) : List Byte :=
  if s.busy then m
  else
    match decodeCommand v with
    | .ok .init => []
    | .ok (.absorb nm1) =>
      if s.phase = phaseOpen ∧ s.len.toNat + byteCount nm1 ≤ lenMax then
        m ++ (quadBytes s.blk).take (byteCount nm1)
      else m
    | .ok .nop | .ok .final | .error _ => m

/-- The message after the next step: reset forgets it, and only a CMD write changes it otherwise. -/
def messageAfter (s : State) (m : List Byte) : List Byte :=
  if s.resetEdge then []
  else
    match s.inputs with
    | .transaction (.write a v) :: _ => if a = 0x00#7 then messageAfterCmd v s m else m
    | _ => m

/-! ## The message a host means to hash -/

/-- The block registers after an event, as the host's own writes leave them (10_state.md R26). -/
def hostBlk (e : Event) (blk : Quad) : Quad :=
  match e with
  | .transaction (.write a v) =>
    if a = 0x20#7 then { blk with w0 := v }
    else if a = 0x28#7 then { blk with w1 := v }
    else if a = 0x30#7 then { blk with w2 := v }
    else if a = 0x38#7 then { blk with w3 := v }
    else blk
  | .transaction (.read _) | .engine | .rst _ => blk

/-- The message after an event, the host taking it that each command is accepted: INIT starts the
empty message, ABSORB n appends the first `n` bytes of BLK (42_commands.md R143). -/
def hostBytes (e : Event) (blk : Quad) (m : List Byte) : List Byte :=
  match e with
  | .transaction (.write a v) =>
    if a = 0x00#7 then
      match decodeCommand v with
      | .ok .init => []
      | .ok (.absorb nm1) => m ++ (quadBytes blk).take (byteCount nm1)
      | .ok .nop | .ok .final | .error _ => m
    else m
  | .transaction (.read _) | .engine | .rst _ => m

/-- The message a host program feeds the core, read off its transactions alone: `blk` is what BLK
holds at its start and `m` the message so far. -/
def hostMessage (blk : Quad) (m : List Byte) : List Event → List Byte
  | [] => m
  | e :: es => hostMessage (hostBlk e blk) (hostBytes e blk m) es

end Sys2Proof.Machine
end

