-- ==== Sys2Proof/Certificates/Slice0/Obligations.lean ====
section
/-! DEFINITION. The statements for the provers. Each docstring names the rule of spec/ it formalises. -/

open Sys2Proof Sys2Proof.Machine

/-! ## Reset -/

/-- 10_state.md R36: what every element holds after reset, in a core fresh from reset and in any core
at a reset edge. -/
def Obligations.ResetHoldsTheSpecValues : Prop :=
  (∀ c : Config, (State.resetOf c).cfg = c) ∧
  (∀ s r : State, (r = coreReset s ∨ (r = State.resetOf s.cfg)) →
    r.S = s.cfg.raw.iv ∧ r.len = 0#64 ∧ r.phase = phaseOpen ∧ r.busy = false ∧ r.err = 0#4 ∧
    r.blk = ⟨0#64, 0#64, 0#64, 0#64⟩ ∧ r.pend = .none ∧ paramsWord r.cfg = paramsWord s.cfg)

/-- The numbers of profile TH1 (00_scope.md R6), and what PARAMS reads with them (10_state.md R27).
The numbers are PRESUMED, log entry 2: R6 marks them "from general knowledge, not in source". -/
def Obligations.ResetUsesTheNumbersOfTH1 : Prop :=
  State.reset.S =
    ⟨0x5d6daffc4411a967#64, 0xe22d4dea68577f34#64, 0xca50864d814cbc2e#64, 0x894e29b9611eb173#64⟩ ∧
  State.reset.cfg.raw.rot = [(16, 28), (14, 57), (11, 22), (35, 34), (57, 16), (59, 40), (44, 13)] ∧
  State.reset.cfg.raw.roundsBlock = 7 ∧ State.reset.cfg.raw.roundsFinal = 14 ∧
  State.reset.cfg.raw.swapSel = .swap01 ∧
  exec .rdParams State.reset = .next { State.reset with reads := 0x0000000107000E07#64 :: State.reset.reads }

/-- 70_reset_and_hazards.md R231: a reset edge abandons the pending operation, whatever it is; the
core is as after any reset. The release of reset (R232) changes the level of the port and takes the
event, nothing else. What stays over an edge (the configuration, the port's level, the events to
come, the values read, the fault mark and the count of draws) is not the core's, and that the release
is a step of its own is the model's: log entries 5 and 9. -/
def Obligations.ResetEdgeAbandonsThePendingOperation : Prop :=
  (∀ s : State, s.resetEdge = true →
    ∃ t, step s = .next t ∧
      t = { State.resetOf s.cfg with
            rst := true, inputs := s.inputs.tail, reads := s.reads, faulted := s.faulted,
            draws := s.draws }) ∧
  (∀ (s : State) (es : List Event), s.inputs = .rst false :: es →
    step s = .next { s with rst := false, inputs := es })

/-- 70_reset_and_hazards.md R232: while `rst = 1` the port takes no transaction. The model stops by a
named fault (log entry 6), and by no other way. -/
def Obligations.TransactionDuringResetIsStuck : Prop :=
  (∀ (s : State) (x : Transaction) (es : List Event),
    s.rst = true → s.inputs = .transaction x :: es → step s = .fault .transactionDuringReset) ∧
  (∀ (s : State) (r : Fault), step s = .fault r →
    s.rst = true ∧ ∃ x es, s.inputs = .transaction x :: es) ∧
  (∀ (s : State) (r : Refusal), step s ≠ .refused r)

/-! ## Invariants of every step -/

/-- The reset state meets the invariants of 10_state.md R37, the relation between ERR and the fault
mark, and has absorbed the empty message. -/
def Obligations.ResetMeetsTheInvariants : Prop :=
  ∀ c : Config, (State.resetOf c).Inv ∧ (State.resetOf c).Marked ∧ Tracks [] (State.resetOf c)

/-- 10_state.md R37: the six invariants hold after every step from a state that has them, and so in
every state a run from reset reaches, whatever the world outside does. -/
def Obligations.StepKeepsTheStateInvariants : Prop :=
  (∀ s t : State, s.Inv → step s = .next t → t.Inv) ∧
  (∀ (c : Config) (es : List Event) (k : Nat) (t : State),
    core.run k { State.resetOf c with inputs := es } = .next t → t.Inv)

/-- 93_implementation_defined.md U2: the fault mark is never cleared, and ERR is never nonzero without
it, so that "no fault" at the end of a run says that nothing was rejected. -/
def Obligations.FaultMarkIsNeverCleared : Prop :=
  ∀ s t : State, step s = .next t →
    (s.faulted = true → t.faulted = true) ∧ (s.Marked → t.Marked)

/-- 10_state.md R32 and 00_scope.md R5: the configuration is never written. -/
def Obligations.ConfigurationIsNeverWritten : Prop :=
  ∀ s t : State, step s = .next t → t.cfg = s.cfg

/-- 10_state.md R21 and 42_commands.md R130: the state words change only when the Engine completes a
pending operation, or at a reset edge. No transaction writes them. -/
def Obligations.OnlyTheEngineAndResetWriteTheState : Prop :=
  (∀ (i : Instr) (s t : State), exec i s = .next t → t.S = s.S) ∧
  (∀ s t : State, step s = .next t → t.S ≠ s.S →
    s.resetEdge = true ∨
    (s.rst = false ∧ s.pend ≠ .none ∧ (s.inputs = [] ∨ ∃ es, s.inputs = .engine :: es)))

/-- 10_state.md R26: only the host writes the block registers. A step changes them only by a write of
one of the four offsets, or at a reset edge. -/
def Obligations.OnlyTheHostWritesTheBlockRegisters : Prop :=
  ∀ s t : State, step s = .next t → t.blk ≠ s.blk →
    s.resetEdge = true ∨
    ∃ (a : Offset) (v : Word) (es : List Event), s.inputs = .transaction (.write a v) :: es ∧
      (a = 0x20#7 ∨ a = 0x28#7 ∨ a = 0x30#7 ∨ a = 0x38#7)

/-- 10_state.md R22, R24 and 43_register_access.md R153, R157: a transaction that is no write of CMD
leaves LEN, PHASE, BUSY, PEND, S and the configuration as they were. -/
def Obligations.OnlyCommandWritesMoveTheSequencer : Prop :=
  ∀ (s t : State) (x : Transaction) (es : List Event),
    s.inputs = .transaction x :: es → (∀ v, x ≠ .write 0x00#7 v) → step s = .next t →
    t.len = s.len ∧ t.phase = s.phase ∧ t.busy = s.busy ∧ t.pend = s.pend ∧ t.S = s.S ∧
      t.cfg = s.cfg ∧ t.inputs = es ∧ t.rst = s.rst

/-- 60_exceptions.md R210: ERR returns to 0 only by a write of STATUS or by reset; every other step,
INIT's among them, leaves a nonzero ERR as it is. -/
def Obligations.ErrClearsOnlyByStatusWriteOrReset : Prop :=
  (∀ s t : State, step s = .next t → s.err ≠ 0#4 → s.resetEdge = false →
    (∀ v es, s.inputs ≠ .transaction (.write 0x08#7 v) :: es) → t.err = s.err) ∧
  (∀ (s : State) (v : Word) (es : List Event), s.rst = false →
    s.inputs = .transaction (.write 0x08#7 v) :: es →
    step s = .next { s with err := 0#4, inputs := es }) ∧
  (∀ s t : State, s.resetEdge = true → step s = .next t → t.err = 0#4)

/-- 60_exceptions.md R209: ERR blocks nothing. Whatever ERR holds, an instruction does the same to
everything but ERR and the value a STATUS read returns. -/
def Obligations.ErrBlocksNothing : Prop :=
  ∀ (i : Instr) (s : State) (e : BitVec 4), ∃ t t' : State,
    exec i s = .next t ∧ exec i { s with err := e } = .next t' ∧
    t' = { t with err := t'.err, reads := t'.reads } ∧ t'.reads.length = t.reads.length ∧
    (i ≠ .rdStatus → t'.reads = t.reads)

/-! ## What a step runs -/

/-- 43_register_access.md R150 and 20_memory.md R60: a step runs the instruction the presented
transaction decodes to, and takes the transaction from the queue. -/
def Obligations.StepRunsThePresentedTransaction : Prop :=
  ∀ (s : State) (x : Transaction) (es : List Event),
    s.rst = false → s.inputs = .transaction x :: es →
    step s = exec (decode x) { s with inputs := es }

/-- 43_register_access.md R151: a write of a legal command word to CMD runs that command. -/
def Obligations.StepRunsTheCommandWord : Prop :=
  ∀ (s : State) (v : Word) (es : List Event) (c : Command),
    s.rst = false → s.inputs = .transaction (.write 0x00#7 v) :: es → decodeCommand v = .ok c →
    step s = exec c.toInstr { s with inputs := es }

/-- Every row of the opcode table, placed as the next thing to run, is run by the next step as the
instruction the decoder reads. The placing is the model's (log entries 3 and 13). -/
def Obligations.PlacedRowIsRunNext : Prop :=
  ∀ (s : State) (nbits w : Nat) (i : Instr), decodeTableWord nbits w = some i →
    step (s.withFetchWord nbits w) = exec i { s with rst := false }

/-- 42_commands.md R141 with R133, R136 and R139: what completing each pending operation writes, all
else left as it was. -/
def Obligations.CompletionWritesTheState : Prop :=
  ∀ s : State,
    (s.pend = .init → engineStep s =
      { s with S := s.cfg.raw.iv, pend := .none, busy := false }) ∧
    (∀ wm, s.pend = .absorb wm → engineStep s =
      { s with
        S := mix s.cfg
          ⟨s.S.w0 ^^^ wm.w0, s.S.w1 ^^^ wm.w1, s.S.w2 ^^^ wm.w2, s.S.w3 ^^^ wm.w3⟩
          s.cfg.raw.roundsBlock
        pend := .none, busy := false }) ∧
    (∀ lb, s.pend = .final lb → engineStep s =
      { s with
        S := mix s.cfg ⟨s.S.w0 ^^^ lb, s.S.w1, s.S.w2, s.S.w3⟩ s.cfg.raw.roundsFinal
        pend := .none, busy := false })

/-- 42_commands.md R141: the Engine's turn completes the pending operation in one step, be it the next
event or the only thing left to happen; with nothing pending it changes nothing. When the Engine
takes its turn, and that an idle turn is a step, are the model's: log entry 4. -/
def Obligations.EngineTurnCompletesThePendingOperation : Prop :=
  ∀ s : State, s.rst = false → (s.inputs = [] ∨ ∃ es, s.inputs = .engine :: es) →
    (s.pend = .none → step s = .next { s with inputs := s.inputs.tail }) ∧
    (s.pend ≠ .none → ∃ t, step s = .next { t with inputs := s.inputs.tail } ∧
      t = engineStep s ∧ t.pend = .none ∧ t.busy = false)

/-- 70_reset_and_hazards.md R238: whatever the world outside delivers, short of reset, once it is
delivered the pending operation has completed. The bound counts the model's steps, not clock cycles
(log entry 19). -/
def Obligations.PendingOperationCompletes : Prop :=
  ∀ s : State, s.rst = false → (∀ l, Event.rst l ∉ s.inputs) →
    ∃ t, core.run (s.inputs.length + 1) s = .next t ∧ t.pend = .none ∧ t.inputs = [] ∧
      t.rst = false ∧ (s.Inv → t.busy = false)

/-! ## Commands -/

/-- 60_exceptions.md R202, with the codes of R200: an error is recorded only if ERR is 0, and changes
nothing else of the core. -/
def Obligations.RaiseRecordsTheFirstError : Prop :=
  (∀ (e : ErrorKind) (s : State), s.err = 0#4 →
    raise e s = { s with err := e.code, faulted := true }) ∧
  (∀ (e : ErrorKind) (s : State), s.err ≠ 0#4 → raise e s = { s with faulted := true }) ∧
  ErrorKind.badAccess.code = 1#4 ∧ ErrorKind.illegalCmd.code = 2#4 ∧
  ErrorKind.busyErr.code = 3#4 ∧ ErrorKind.sequence.code = 4#4 ∧ ErrorKind.lenOvf.code = 5#4

/-- 42_commands.md R137: NOP changes nothing in any idle state; while BUSY it raises BUSY_ERR. -/
def Obligations.NopChangesNothing : Prop :=
  decodeCommand 0x0#64 = .ok .nop ∧
  (∀ s : State, s.busy = false → exec .nop s = .next s) ∧
  (∀ s : State, s.busy = true → exec .nop s = .next (raise .busyErr s))

/-- 42_commands.md R132: the acceptance of INIT, legal in every phase, and its errors. -/
def Obligations.InitAcceptance : Prop :=
  decodeCommand 0x1#64 = .ok .init ∧
  (∀ s : State, s.busy = false → exec .init s = .next
    { s with len := 0#64, phase := phaseOpen, pend := .init, busy := true }) ∧
  (∀ s : State, s.busy = true → exec .init s = .next (raise .busyErr s)) ∧
  (∀ (s : State) (v : Word), s.busy = false → opField v = 1#4 → v ≠ 0x1#64 →
    exec (.wrCmd v) s = .next (raise .illegalCmd s))

/-- 42_commands.md R133: after the completion of INIT the core equals the reset state in every element
but ERR and BLK. -/
def Obligations.InitCompletionGivesTheResetState : Prop :=
  ∀ s : State, s.busy = false → ∃ t, exec .init s = .next t ∧
    engineStep t =
      { State.resetOf s.cfg with
        err := s.err, blk := s.blk, rst := s.rst, inputs := s.inputs, reads := s.reads,
        faulted := s.faulted, draws := s.draws }

/-- 42_commands.md R135: the acceptance of ABSORB n and its errors in their order. -/
def Obligations.AbsorbAcceptance : Prop :=
  (∀ nm1 : BitVec 5, encodeCommand (.absorb nm1) =
    0x2#64 ||| (BitVec.ofNat 64 (byteCount nm1 - 1) <<< 8)) ∧
  (∀ (s : State) (nm1 : BitVec 5),
    s.busy = false → s.phase = phaseOpen → s.len.toNat + byteCount nm1 ≤ 2 ^ 61 - 1 →
    exec (.absorb nm1) s = .next
      { s with
        len := s.len + BitVec.ofNat 64 (byteCount nm1)
        phase := if byteCount nm1 = 32 then phaseOpen else phaseTail
        pend := .absorb (maskedBlock s.blk (byteCount nm1))
        busy := true }) ∧
  (∀ (s : State) (nm1 : BitVec 5), s.busy = true →
    exec (.absorb nm1) s = .next (raise .busyErr s)) ∧
  (∀ (s : State) (v : Word), s.busy = false → opField v = 2#4 →
    (res0Field v ≠ 0 ∨ res1Field v ≠ 0) → exec (.wrCmd v) s = .next (raise .illegalCmd s)) ∧
  (∀ (s : State) (nm1 : BitVec 5), s.busy = false → s.phase ≠ phaseOpen →
    exec (.absorb nm1) s = .next (raise .sequence s)) ∧
  (∀ (s : State) (nm1 : BitVec 5),
    s.busy = false → s.phase = phaseOpen → 2 ^ 61 - 1 < s.len.toNat + byteCount nm1 →
    exec (.absorb nm1) s = .next (raise .lenOvf s))

/-- 42_commands.md R134 with 41_hash_algorithm.md R112: the latched block's 32 bytes are the first `n`
of BLK and zeros after them, whatever BLK holds there. -/
def Obligations.LatchedBlockIsTheZeroPaddedBlock : Prop :=
  (∀ (q : Quad) (n : Nat), n ≤ 32 →
    quadBytes (maskedBlock q n) = (quadBytes q).take n ++ List.replicate (32 - n) 0#8) ∧
  (∀ (q : Quad) (n : Nat), 1 ≤ n → n ≤ 32 →
    maskedBlock q n = quadOfBytes (padBlock ((quadBytes q).take n))) ∧
  (∀ (s : State) (nm1 : BitVec 5),
    s.busy = false → s.phase = phaseOpen → s.len.toNat + byteCount nm1 ≤ 2 ^ 61 - 1 →
    ∃ t wm, exec (.absorb nm1) s = .next t ∧ t.pend = .absorb wm ∧ t.blk = s.blk ∧
      quadBytes wm = (quadBytes s.blk).take (byteCount nm1) ++
        List.replicate (32 - byteCount nm1) 0#8)

/-- 42_commands.md R138: the acceptance of FINAL and its errors. -/
def Obligations.FinalAcceptance : Prop :=
  decodeCommand 0x3#64 = .ok .final ∧
  (∀ s : State, s.busy = false → s.phase ≠ phaseDone → exec .final s = .next
    { s with phase := phaseDone, pend := .final (s.len <<< 3), busy := true }) ∧
  (∀ s : State, s.busy = true → exec .final s = .next (raise .busyErr s)) ∧
  (∀ (s : State) (v : Word), s.busy = false → opField v = 3#4 → v ≠ 0x3#64 →
    exec (.wrCmd v) s = .next (raise .illegalCmd s)) ∧
  (∀ s : State, s.busy = false → s.phase = phaseDone →
    exec .final s = .next (raise .sequence s))

/-- 60_exceptions.md R204: the bit length never wraps while LEN keeps its bound, which it does
(10_state.md R37). -/
def Obligations.BitLengthIsExact : Prop :=
  ∀ s : State, s.Inv → (bitLength s.len).toNat = 8 * s.len.toNat

/-- 42_commands.md R131: the checks of a CMD write in their order, each with its error, for every
word; a legal word that passes them runs its command. -/
def Obligations.CommandWriteChecksInOrder : Prop :=
  ∀ (s : State) (v : Word),
    (s.busy = true → exec (.wrCmd v) s = .next (raise .busyErr s)) ∧
    (s.busy = false →
      (∀ e, decodeCommand v = .error e → exec (.wrCmd v) s = .next (raise .illegalCmd s)) ∧
      (decodeCommand v = .ok .nop → exec (.wrCmd v) s = .next s) ∧
      (decodeCommand v = .ok .init → exec (.wrCmd v) s = .next
        { s with len := 0#64, phase := phaseOpen, pend := .init, busy := true }) ∧
      (∀ nm1, decodeCommand v = .ok (.absorb nm1) →
        (s.phase ≠ phaseOpen → exec (.wrCmd v) s = .next (raise .sequence s)) ∧
        (s.phase = phaseOpen → 2 ^ 61 - 1 < s.len.toNat + byteCount nm1 →
          exec (.wrCmd v) s = .next (raise .lenOvf s)) ∧
        (s.phase = phaseOpen → s.len.toNat + byteCount nm1 ≤ 2 ^ 61 - 1 →
          exec (.wrCmd v) s = .next
            { s with
              len := s.len + BitVec.ofNat 64 (byteCount nm1)
              phase := if byteCount nm1 = 32 then phaseOpen else phaseTail
              pend := .absorb (maskedBlock s.blk (byteCount nm1))
              busy := true })) ∧
      (decodeCommand v = .ok .final →
        (s.phase = phaseDone → exec (.wrCmd v) s = .next (raise .sequence s)) ∧
        (s.phase ≠ phaseDone → exec (.wrCmd v) s = .next
          { s with phase := phaseDone, pend := .final (s.len <<< 3), busy := true })))

/-- 42_commands.md R142: a CMD write that is not accepted changes nothing except ERR (and the model's
fault mark), and ERR only if it was 0. A write is accepted if it sets BUSY, or is the word of NOP. -/
def Obligations.RejectedCommandChangesOnlyErr : Prop :=
  ∀ (s t : State) (v : Word), exec (.wrCmd v) s = .next t →
    (s.busy = true ∨ (t.busy = false ∧ v ≠ 0x0#64)) →
    t = { s with err := t.err, faulted := true } ∧ t.err ≠ 0#4 ∧ (s.err ≠ 0#4 → t.err = s.err)

/-! ## Registers -/

/-- 43_register_access.md R152 with 10_state.md R28: what a STATUS read returns, field by field. -/
def Obligations.StatusReadReturnsItsFields : Prop :=
  ∀ s : State, ∃ v : Word, exec .rdStatus s = .next { s with reads := v :: s.reads } ∧
    v.getLsbD 0 = s.busy ∧ v.extractLsb' 1 2 = s.phase ∧ v.extractLsb' 3 5 = 0#5 ∧
    v.extractLsb' 8 4 = s.err ∧ v.extractLsb' 12 52 = 0#52

/-- 43_register_access.md R155 with 10_state.md R27: what a PARAMS read returns, field by field. -/
def Obligations.ParamsReadReturnsItsFields : Prop :=
  ∀ s : State, ∃ v : Word, exec .rdParams s = .next { s with reads := v :: s.reads } ∧
    (v.extractLsb' 0 8).toNat = s.cfg.raw.roundsBlock ∧
    (v.extractLsb' 8 8).toNat = s.cfg.raw.roundsFinal ∧
    (v.getLsbD 16 = true ↔ s.cfg.raw.swapSel = .swap23) ∧
    v.extractLsb' 17 7 = 0#7 ∧
    (v.extractLsb' 24 8).toNat = s.cfg.raw.rot.length ∧
    v.extractLsb' 32 32 = s.cfg.raw.paramId

/-- 43_register_access.md R151 and R154: a CMD read returns 0, a LEN read LEN, and nothing else
changes. -/
def Obligations.CommandAndLengthReads : Prop :=
  ∀ s : State,
    exec .rdCmd s = .next { s with reads := 0#64 :: s.reads } ∧
    exec .rdLen s = .next { s with reads := s.len :: s.reads }

/-- 43_register_access.md R153: a STATUS write clears ERR, whatever its value, and does nothing else. -/
def Obligations.StatusWriteClearsErr : Prop :=
  ∀ (s : State) (v : Word), exec (.wrStatus v) s = .next { s with err := 0#4 }

/-- 43_register_access.md R156 and R157: each block register reads what it holds, and a write replaces
all 64 bits of it and of nothing else, BUSY or not. -/
def Obligations.BlockRegistersReadAndWrite : Prop :=
  ∀ (s : State) (v : Word),
    exec .rdBlk0 s = .next { s with reads := s.blk.w0 :: s.reads } ∧
    exec .rdBlk1 s = .next { s with reads := s.blk.w1 :: s.reads } ∧
    exec .rdBlk2 s = .next { s with reads := s.blk.w2 :: s.reads } ∧
    exec .rdBlk3 s = .next { s with reads := s.blk.w3 :: s.reads } ∧
    exec (.wrBlk0 v) s = .next { s with blk := { s.blk with w0 := v } } ∧
    exec (.wrBlk1 v) s = .next { s with blk := { s.blk with w1 := v } } ∧
    exec (.wrBlk2 v) s = .next { s with blk := { s.blk with w2 := v } } ∧
    exec (.wrBlk3 v) s = .next { s with blk := { s.blk with w3 := v } }

/-- 43_register_access.md R160: an idle core's STATE read returns the word; while BUSY = 1 it returns
some value, about which nothing is said, and changes nothing of the core. (`draws` counts the free
values, log entry 7.) -/
def Obligations.StateReads : Prop :=
  (∀ s : State, s.busy = false →
    exec .rdState0 s = .next { s with reads := s.S.w0 :: s.reads } ∧
    exec .rdState1 s = .next { s with reads := s.S.w1 :: s.reads } ∧
    exec .rdState2 s = .next { s with reads := s.S.w2 :: s.reads } ∧
    exec .rdState3 s = .next { s with reads := s.S.w3 :: s.reads }) ∧
  (∀ (s : State) (i : Instr), s.busy = true →
    (i = .rdState0 ∨ i = .rdState1 ∨ i = .rdState2 ∨ i = .rdState3) →
    ∃ v : Word, exec i s = .next { s with reads := v :: s.reads, draws := s.draws + 1 })

/-- 43_register_access.md R161 (10_state.md R29): the digest registers read the state once PHASE is
DONE and BUSY is 0, and otherwise 0. -/
def Obligations.DigestReads : Prop :=
  (∀ s : State, s.phase = phaseDone → s.busy = false →
    exec .rdDigest0 s = .next { s with reads := s.S.w0 :: s.reads } ∧
    exec .rdDigest1 s = .next { s with reads := s.S.w1 :: s.reads } ∧
    exec .rdDigest2 s = .next
      { s with reads := (s.S.w2 &&& 0x00000000FFFFFFFF#64) :: s.reads }) ∧
  (∀ (s : State) (i : Instr), (s.phase ≠ phaseDone ∨ s.busy = true) →
    (i = .rdDigest0 ∨ i = .rdDigest1 ∨ i = .rdDigest2) →
    exec i s = .next { s with reads := 0#64 :: s.reads })

/-- 43_register_access.md R165: a write of a read-only register raises BAD_ACCESS and changes no
register. -/
def Obligations.ReadOnlyWritesRaiseBadAccess : Prop :=
  ∀ (s : State) (v : Word) (i : Instr),
    i ∈ [.wrLen v, .wrParams v, .wrState0 v, .wrState1 v, .wrState2 v, .wrState3 v, .wrDigest0 v,
      .wrDigest1 v, .wrDigest2 v] →
    exec i s = .next { s with err := if s.err = 0#4 then 1#4 else s.err, faulted := true }

/-- 43_register_access.md R166: any access to 0x78 raises BAD_ACCESS; a read returns 0. -/
def Obligations.ReservedOffsetRaisesBadAccess : Prop :=
  ∀ (s : State) (v : Word),
    exec .rdReserved s = .next
      { s with err := if s.err = 0#4 then 1#4 else s.err, faulted := true,
               reads := 0#64 :: s.reads } ∧
    exec (.wrReserved v) s = .next
      { s with err := if s.err = 0#4 then 1#4 else s.err, faulted := true }

/-- 43_register_access.md R164: every misaligned transaction, at any offset, raises BAD_ACCESS and
nothing else; a read returns 0, a write issues no command. -/
def Obligations.MisalignedTransactionRaisesBadAccess : Prop :=
  (∀ (s : State) (a : Offset) (es : List Event), s.rst = false → a &&& 7#7 ≠ 0#7 →
    (s.inputs = .transaction (.read a) :: es → step s = .next
      { s with err := if s.err = 0#4 then 1#4 else s.err, faulted := true, inputs := es,
               reads := 0#64 :: s.reads }) ∧
    (∀ v, s.inputs = .transaction (.write a v) :: es → step s = .next
      { s with err := if s.err = 0#4 then 1#4 else s.err, faulted := true, inputs := es })) ∧
  (∀ (s : State) (a : Offset) (i : Instr),
    i ∈ [.misaligned0 none a, .misaligned1 none a, .misaligned2 none a] →
    exec i s = .next
      { s with err := if s.err = 0#4 then 1#4 else s.err, faulted := true,
               reads := 0#64 :: s.reads }) ∧
  (∀ (s : State) (a : Offset) (v : Word) (i : Instr),
    i ∈ [.misaligned0 (some v) a, .misaligned1 (some v) a, .misaligned2 (some v) a] →
    exec i s = .next { s with err := if s.err = 0#4 then 1#4 else s.err, faulted := true })

/-- 60_exceptions.md R205: the causes of BAD_ACCESS are exactly a misaligned offset, a write of a
read-only register, and the offset 0x78. -/
def Obligations.BadAccessCausesAreExact : Prop :=
  ∀ (s t : State) (x : Transaction) (es : List Event),
    s.inputs = .transaction x :: es → s.err = 0#4 → step s = .next t →
    (t.err = 1#4 ↔
      (x.addr &&& 7#7 ≠ 0#7 ∨ x.addr = 0x78#7 ∨
        ∃ a v, x = .write a v ∧
          a ∈ [0x10#7, 0x18#7, 0x40#7, 0x48#7, 0x50#7, 0x58#7, 0x60#7, 0x68#7, 0x70#7]))

/-! ## Encoding -/

/-- Seven legal and three illegal words and seven keys written out from 30_encoding.md R72, R76 and R81
decode to what they stand for. That 8 bits are a key, with write data 0, is log entry 13. -/
def Obligations.SpecWordsDecode : Prop :=
  decodeTableWord 64 0x0000000000000000 = some .nop ∧
  decodeTableWord 64 0x0000000000000001 = some .init ∧
  decodeTableWord 64 0x0000000000000003 = some .final ∧
  decodeTableWord 64 0x0000000000001F02 = some (.absorb 31#5) ∧
  decodeTableWord 64 0x0000000000000B02 = some (.absorb 11#5) ∧
  decodeTableWord 64 0x0000000000000002 = some (.absorb 0#5) ∧
  decodeTableWord 64 0x0000000000000902 = some (.absorb 9#5) ∧
  decodeTableWord 64 0x0000000000000101 = none ∧
  decodeTableWord 64 0x0000000000002002 = none ∧
  decodeTableWord 64 0x8000000000000001 = none ∧
  decodeTableWord 8 0b10000000 = some (.wrCmd 0#64) ∧
  decodeTableWord 8 0b00001000 = some .rdStatus ∧
  decodeTableWord 8 0b10110000 = some (.wrBlk2 0#64) ∧
  decodeTableWord 8 0b01011000 = some .rdState3 ∧
  decodeTableWord 8 0b11110000 = some (.wrDigest2 0#64) ∧
  decodeTableWord 8 0b01111000 = some .rdReserved ∧
  decodeTableWord 8 0b00001100 = some (.misaligned2 none 0x0C#7)

/-- Decoding an encoded well-formed instruction gives it back, for all instructions of both formats. -/
def Obligations.DecodeOfEncode : Prop :=
  ∀ i : Instr, i.wf = true → (encode i).decode = .ok i

/-- What is decoded is well-formed and encodes to what it was decoded from: no two words, and no two
transactions, stand for one instruction. -/
def Obligations.EncodeOfDecode : Prop :=
  ∀ (e : Encoded) (i : Instr), e.decode = .ok i → i.wf = true ∧ encode i = e

/-- 30_encoding.md R74: exactly 35 command words are legal, those it lists. -/
def Obligations.ExactlyThirtyFiveLegalWords : Prop :=
  ∃ l : List Word, l = 0x0#64 :: 0x1#64 :: 0x3#64 ::
      (List.range 32).map (fun k => 0x2#64 ||| (BitVec.ofNat 64 k <<< 8)) ∧
    l.length = 35 ∧ l.Nodup ∧ ∀ v : Word, v ∈ l ↔ ∃ c, decodeCommand v = .ok c

/-- 30_encoding.md R76: the decoder follows the table's rows. The row of the instruction read fits the
key; an aligned key fits no other row, and a misaligned key is read by a misaligned row. -/
def Obligations.EveryKeyIsReadByItsRow : Prop :=
  ∀ x : Transaction, ∃ r ∈ keyRows, r.mnemonic = (decode x).mnemonic ∧ r.fits x.key = true ∧
    (x.addr &&& 7#7 ≠ 0#7 → r ∈ misalignedRows) ∧
    (x.addr &&& 7#7 = 0#7 → ∀ r' ∈ keyRows, r'.fits x.key = true → r' = r)

/-- 30_encoding.md R79: the expansions of the pseudo-instructions, and what a host running POLL's two
lines does: whatever else its program holds, it reads STATUS into `t`, and goes back to read again
exactly while BUSY = 1. With the Engine's completion after `k` passes the loop issues the events of
`pollEvents`, and leaves at the first STATUS that shows BUSY = 0. That the temporary is the name "t"
in every POLL, and that a label that stands again further on is not the one gone to, are the model's
choices: log entry 20. -/
def Obligations.PseudoInstructionsExpand : Prop :=
  Pseudo.nop.lines = [.wr .cmd 0x0#64] ∧
  Pseudo.init.lines = [.wr .cmd 0x1#64] ∧
  (∀ n : Nat, 1 ≤ n → n ≤ 32 → (Pseudo.absorb (BitVec.ofNat 5 (n - 1))).lines =
    [.wr .cmd (0x2#64 + (BitVec.ofNat 64 (n - 1) <<< 8))]) ∧
  (∀ nm1, (Pseudo.absorb nm1).events =
    [.transaction (.write 0x00#7 (encodeCommand (.absorb nm1)))]) ∧
  Pseudo.final.lines = [.wr .cmd 0x3#64] ∧
  Pseudo.clrerr.lines = [.wr .status 0x0#64] ∧
  (∀ l, (Pseudo.poll l).lines = [.label l, .rd .status (some "t"), .bnz "t" 0 l]) ∧
  (∀ b : List Byte, b.length ≤ 32 → ∃ p, p = b ++ List.replicate (32 - b.length) 0#8 ∧
    (Pseudo.ldblk b).lines =
      [.wr (.blk 0) (le64 (p.take 8)), .wr (.blk 1) (le64 ((p.drop 8).take 8)),
       .wr (.blk 2) (le64 ((p.drop 16).take 8)), .wr (.blk 3) (le64 ((p.drop 24).take 8))]) ∧
  Pseudo.rddigest.lines =
    [.rd (.digest 0) (some "d0"), .rd (.digest 1) (some "d1"), .rd (.digest 2) (some "d2")] ∧
  Pseudo.chkerr.lines = [.rd .status (some "s")] ∧
  (∀ s : State, errIsZero (statusWord s) = true ↔ s.err = 0#4) ∧
  (∀ r v name, (Line.wr r v).transaction = some (.write r.offset v) ∧
    (Line.rd r name).transaction = some (.read r.offset)) ∧
  RegName.cmd.offset = 0x00#7 ∧ RegName.status.offset = 0x08#7 ∧
  (List.finRange 4).map (fun j => (RegName.blk j).offset) = [0x20#7, 0x28#7, 0x30#7, 0x38#7] ∧
  (List.finRange 3).map (fun j => (RegName.digest j).offset) = [0x60#7, 0x68#7, 0x70#7] ∧
  (∀ (d : Driver) (s : State) (l : Nat) (rest : List Line),
    s.rst = false → d.todo = (Pseudo.poll l).lines ++ rest →
    below l d.prog = some (pollPass l ++ rest) →
    together [.host] (d, s) = some ({ d with todo := pollPass l ++ rest }, s)) ∧
  (∀ (d : Driver) (s : State) (l : Nat) (rest : List Line),
    s.rst = false → d.todo = pollPass l ++ rest → below l d.prog = some (pollPass l ++ rest) →
    together [.host, .host] (d, s) =
      some ({ d with todo := if s.busy then pollPass l ++ rest else rest,
                     env := ("t", statusWord s) :: d.env },
            { s with reads := statusWord s :: s.reads })) ∧
  (∀ (d : Driver) (s : State) (l k : Nat) (rest : List Line),
    s.rst = false → s.busy = true → s.pend ≠ .none → d.todo = (Pseudo.poll l).lines ++ rest →
    below l d.prog = some (pollPass l ++ rest) →
    ∃ (t : State) (env : List (String × Word)),
      core.run (k + 2) { s with inputs := pollEvents l k ++ s.inputs } = .next t ∧
      together (.host :: List.replicate (2 * k) .host ++ [.engine, .host, .host]) (d, s) =
        some ({ d with todo := rest, env := env }, t) ∧
      t.busy = false ∧
      t.reads = statusWord t :: List.replicate k (statusWord s) ++ s.reads)

/-! ## The permutation -/

/-- 40_permutation.md R102: the five steps of a round, for either swap pair. -/
def Obligations.RoundFollowsTheFiveSteps : Prop :=
  ∀ (c : Config) (q : Quad) (i : Nat),
    (c.raw.swapSel = .swap01 → mixRound c q i =
      ⟨q.w1 + q.w3, q.w0 + q.w2,
       rotl64 q.w2 (rotPair c i).1 ^^^ (q.w0 + q.w2),
       rotl64 q.w3 (rotPair c i).2 ^^^ (q.w1 + q.w3)⟩) ∧
    (c.raw.swapSel = .swap23 → mixRound c q i =
      ⟨q.w0 + q.w2, q.w1 + q.w3,
       rotl64 q.w3 (rotPair c i).2 ^^^ (q.w1 + q.w3),
       rotl64 q.w2 (rotPair c i).1 ^^^ (q.w0 + q.w2)⟩)

/-- 40_permutation.md R100: result bit `(i + r) mod 64` is bit `i`, for every legal amount. -/
def Obligations.RotationMovesEveryBit : Prop :=
  ∀ (x : Word) (r i : Nat), 1 ≤ r → r ≤ 63 → i < 64 →
    (rotl64 x r).getLsbD ((i + r) % 64) = x.getLsbD i

/-- 40_permutation.md R101 with 00_scope.md R5: the rounds of every `Mix` are numbered from 0, round `i`
uses entry `i mod ROT_LEN` of the table, and no rotation by 0 or 64 is ever asked. -/
def Obligations.RotationScheduleCyclesTheTable : Prop :=
  (∀ (c : Config) (i : Nat),
    c.raw.rot[i % c.raw.rot.length]? = some (rotPair c i) ∧
    1 ≤ (rotPair c i).1 ∧ (rotPair c i).1 ≤ 63 ∧ 1 ≤ (rotPair c i).2 ∧ (rotPair c i).2 ≤ 63) ∧
  (∀ (c : Config) (q : Quad) (r : Nat),
    mix c q r = (List.range r).foldl (fun q i => mixRound c q i) q)

/-- 40_permutation.md R106: a round is a bijection with the inverse given, and so is `Mix`. -/
def Obligations.InverseRoundUndoesARound : Prop :=
  (∀ (c : Config) (q : Quad) (i : Nat),
    invRound c (mixRound c q i) i = q ∧ mixRound c (invRound c q i) i = q) ∧
  (∀ (c : Config) (r : Nat), Function.Bijective (fun q => mix c q r)) ∧
  (∀ (c : Config) (q : Quad) (r : Nat), invMix c (mix c q r) r = q ∧ mix c (invMix c q r) r = q)

/-- 40_permutation.md R105: the zero state is a fixed point of every round and of `Mix`. -/
def Obligations.ZeroStateIsAFixedPoint : Prop :=
  (∀ (c : Config) (i : Nat), mixRound c ⟨0#64, 0#64, 0#64, 0#64⟩ i = ⟨0#64, 0#64, 0#64, 0#64⟩) ∧
  (∀ (c : Config) (r : Nat), mix c ⟨0#64, 0#64, 0#64, 0#64⟩ r = ⟨0#64, 0#64, 0#64, 0#64⟩)

/-- 40_permutation.md R103: after a number of rounds that is a multiple of the table's length the
schedule starts again, so a longer `Mix` is two shorter ones; for TH1, `Mix(S, 14) = Mix(Mix(S, 7), 7)`. -/
def Obligations.MixSplitsAtTheTableLength : Prop :=
  (∀ (c : Config) (q : Quad) (a b : Nat), c.raw.rot.length ∣ a →
    mix c q (a + b) = mix c (mix c q a) b) ∧
  (∀ q : Quad, mix Config.th1 q 14 = mix Config.th1 (mix Config.th1 q 7) 7)

/-! ## The hash -/

/-- 00_scope.md R13: byte `k` of a sequence is bits `8k+7:8k` of its `le64`; `le64` and `unle64` are
inverse to each other, and so is the packing of a block. -/
def Obligations.BytePackingIsInvertible : Prop :=
  (∀ b : List Byte, b.length = 8 → ∀ k, k < 8 →
    b[k]? = some ((le64 b).extractLsb' (8 * k) 8)) ∧
  (∀ w : Word, le64 (unle64 w) = w) ∧
  (∀ b : List Byte, b.length = 8 → unle64 (le64 b) = b) ∧
  (∀ q : Quad, quadOfBytes (quadBytes q) = q) ∧
  (∀ b : List Byte, b.length = 32 → quadBytes (quadOfBytes b) = b)

/-- 41_hash_algorithm.md R117 with 10_state.md R29: the bytes a host recovers from the three digest
registers are the digest of the state, its first 20 bytes. -/
def Obligations.DigestRegistersHoldTheDigest : Prop :=
  (∀ q : Quad, digestBytes q =
    unle64 q.w0 ++ unle64 q.w1 ++ [byteOf q.w2 0, byteOf q.w2 1, byteOf q.w2 2, byteOf q.w2 3]) ∧
  (∀ s : State, s.phase = phaseDone → s.busy = false →
    hostDigest (digestView s 0) (digestView s 1) (digestView s 2) = digestBytes s.S)

/-- 41_hash_algorithm.md R118 and R120: a digest exists exactly for the messages within the length
bound, and has 20 bytes. -/
def Obligations.DigestHasTwentyBytes : Prop :=
  ∀ (c : Config) (m : List Byte),
    ((tentHash c m).isSome = true ↔ m.length ≤ 2 ^ 61 - 1) ∧
    ∀ d, tentHash c m = some d → d.length = 20

/-- 41_hash_algorithm.md R111 to R114: absorbing a message of full blocks and then one more block is
absorbing the longer message; no empty block follows full ones (90_conflicts.md C1). -/
def Obligations.AbsorbingOneMoreBlock : Prop :=
  (∀ c : Config, absorbMessage c [] = c.raw.iv) ∧
  (∀ (c : Config) (m b : List Byte), m.length % 32 = 0 → 1 ≤ b.length → b.length ≤ 32 →
    absorbMessage c (m ++ b) =
      mix c ((absorbMessage c m).xor
        (quadOfBytes (b ++ List.replicate (32 - b.length) 0#8))) c.raw.roundsBlock)

/-- 42_commands.md R143, for every interleaving: every step keeps the relation between the core and
the message it has absorbed. The message changes only when a command is accepted, or at reset. -/
def Obligations.StepTracksTheMessage : Prop :=
  ∀ (s t : State) (m : List Byte), Tracks m s → step s = .next t → Tracks (messageAfter s m) t

/-- 42_commands.md R143: whenever a core that has absorbed `m` shows PHASE = DONE and BUSY = 0, its
digest registers hold `TentHash_CFG(m)`. -/
def Obligations.TrackedDigestIsTheHash : Prop :=
  ∀ (s : State) (m : List Byte), Tracks m s → s.phase = phaseDone → s.busy = false →
    tentHash s.cfg m = some (hostDigest (digestView s 0) (digestView s 1) (digestView s 2))

/-- 42_commands.md R143: a host program started on a core fresh from reset or from a completed INIT,
with the Engine's turns anywhere between its transactions: if none of its steps raised an error (seen
by the mark, whatever the mark was before, or by ERR reading 0 at the end of a program that never
clears it), then at its end, with PHASE = DONE and BUSY = 0, the digest registers hold the hash of
the bytes it fed. -/
def Obligations.RunWithoutErrorHashesTheHostsMessage : Prop :=
  ∀ (s t : State) (k : Nat),
    s.Ready → s.phase = phaseOpen → s.len = 0#64 → s.S = s.cfg.raw.iv →
    (∀ l, Event.rst l ∉ s.inputs) → core.run k s = .next t → t.inputs = [] →
    (s.RaisesNone k ∨
      (t.err = 0#4 ∧ ∀ v, Event.transaction (.write 0x08#7 v) ∉ s.inputs)) →
    t.phase = phaseDone → t.busy = false →
    tentHash s.cfg (hostMessage s.blk [] s.inputs) =
      some (hostDigest (digestView t 0) (digestView t 1) (digestView t 2))

/-- 70_reset_and_hazards.md R242 with 42_commands.md R143: the safe host sequence, from any idle core
in whatever phase with `INIT ; POLL`, or without them from a core fresh from reset or a completed
INIT. However many polls each of its commands takes, it raises no error, ends idle in phase DONE with
LEN the message's length, and reads the digest of the message. -/
def Obligations.SafeSequenceReadsTheHash : Prop :=
  ∀ (s : State) (m : List Byte) (withInit : Bool) (ks : List Nat) (es : List Event),
    s.Ready → m.length ≤ 2 ^ 61 - 1 →
    (withInit = false → s.phase = phaseOpen ∧ s.len = 0#64 ∧ s.S = s.cfg.raw.iv) →
    s.inputs = safeSequence withInit ks m ++ es →
    ∃ (t : State) (d0 d1 d2 status : Word) (older : List Word),
      core.run (safeSequence withInit ks m).length s = .next t ∧
      t.inputs = es ∧ t.cfg = s.cfg ∧ t.phase = phaseDone ∧ t.busy = false ∧ t.err = 0#4 ∧
      t.faulted = s.faulted ∧ t.len.toNat = m.length ∧
      t.reads = d2 :: d1 :: d0 :: status :: older ∧ status = 0x4#64 ∧ errIsZero status = true ∧
      tentHash s.cfg m = some (hostDigest d0 d1 d2)
end

