-- ==== Sys2Proof/Laws/Bytes.lean ====
section
/-! SUPPORT. Bits and bytes: which bit of a word each byte holds, which byte of a block each word
holds, and which bits a padding mask keeps. -/

namespace Sys2Proof.Machine

theorem byteOf_getLsbD (w : Word) (k i : Nat) :
    (byteOf w k).getLsbD i = (decide (i < 8) && w.getLsbD (8 * k + i)) := by
  unfold byteOf
  rw [BitVec.getLsbD_extractLsb']

/-- Bit `i` of `le64` of a byte sequence is bit `i mod 8` of byte `i div 8` (00_scope.md R13). -/
theorem le64_getLsbD (l : List Byte) (i : Nat) (hi : i < 64) :
    (le64 l).getLsbD i = (l.getD (i / 8) 0).getLsbD (i % 8) := by
  induction l generalizing i with
  | nil => simp [le64]
  | cons b bs ih =>
    simp only [le64, BitVec.getLsbD_or, BitVec.getLsbD_setWidth, BitVec.getLsbD_shiftLeft]
    by_cases h : i < 8
    · have e : i / 8 = 0 := by omega
      have e2 : i % 8 = i := by omega
      simp [h, e, e2, hi]
    · have e : i / 8 = (i - 8) / 8 + 1 := by omega
      have e2 : i % 8 = (i - 8) % 8 := by omega
      simp [h, hi, e, e2, BitVec.getLsbD_of_ge b i (by omega), ih (i - 8) (by omega)]

@[simp] theorem length_unle64 (w : Word) : (unle64 w).length = 8 := by simp [unle64]

@[simp] theorem length_quadBytes (q : Quad) : (quadBytes q).length = 32 := by simp [quadBytes]

@[simp] theorem length_digestBytes (q : Quad) : (digestBytes q).length = 20 := by simp [digestBytes]

theorem getElem_unle64 (w : Word) (k : Nat) (h : k < (unle64 w).length) :
    (unle64 w)[k] = byteOf w k := by simp [unle64]

/-- `ByteMask(n, j)` keeps the bits of the bytes of word `j` below byte `n` (42_commands.md R134). -/
theorem byteMask_getLsbD (n j i : Nat) (hi : i < 64) :
    (byteMask n j).getLsbD i = decide (i < 8 * bytesInWord n j) := by
  unfold byteMask
  split
  · rename_i h
    have e : (0xFFFFFFFFFFFFFFFF#64) = BitVec.allOnes 64 := by decide
    rw [e, BitVec.getLsbD_allOnes, h]
  · rename_i h
    have hb : bytesInWord n j ≤ 8 := by unfold bytesInWord; omega
    have hlt : 8 * bytesInWord n j < 64 := by omega
    generalize 8 * bytesInWord n j = k at *
    have h1 : 2 ^ k < 2 ^ 64 := Nat.pow_lt_pow_right (by omega) hlt
    have h2 : 0 < 2 ^ k := Nat.pow_pos (by omega)
    have e : (1#64 <<< k) - 1#64 = BitVec.ofNat 64 (2 ^ k - 1) := by
      apply BitVec.eq_of_toNat_eq
      rw [BitVec.toNat_sub, BitVec.toNat_shiftLeft, BitVec.toNat_ofNat, BitVec.toNat_ofNat,
        Nat.shiftLeft_eq]
      norm_num
      omega
    rw [e, BitVec.getLsbD_ofNat, Nat.testBit_two_pow_sub_one]
    simp [hi]

/-- A masked byte is the byte itself inside the block and 0 past it. -/
theorem byteOf_and_byteMask (w : Word) (n j k : Nat) (hk : k < 8) :
    byteOf (w &&& byteMask n j) k = if 8 * j + k < n then byteOf w k else 0#8 := by
  apply BitVec.eq_of_getLsbD_eq
  intro i hi
  rw [byteOf_getLsbD, BitVec.getLsbD_and, byteMask_getLsbD _ _ _ (by omega)]
  split
  · have h : 8 * k + i < 8 * bytesInWord n j := by unfold bytesInWord; omega
    simp [h, byteOf_getLsbD]
  · have h : ¬8 * k + i < 8 * bytesInWord n j := by unfold bytesInWord; omega
    simp [h]

end Sys2Proof.Machine
end

