-- ==== Sys2Proof/Laws/Decode.lean ====
section
/-! SUPPORT. What the decoder reads at each aligned offset, and the aligned offsets themselves. -/

namespace Sys2Proof

@[simp] theorem decode_read_00 : decode (.read 0x00#7) = .rdCmd := rfl
@[simp] theorem decode_read_08 : decode (.read 0x08#7) = .rdStatus := rfl
@[simp] theorem decode_read_10 : decode (.read 0x10#7) = .rdLen := rfl
@[simp] theorem decode_read_18 : decode (.read 0x18#7) = .rdParams := rfl
@[simp] theorem decode_read_20 : decode (.read 0x20#7) = .rdBlk0 := rfl
@[simp] theorem decode_read_28 : decode (.read 0x28#7) = .rdBlk1 := rfl
@[simp] theorem decode_read_30 : decode (.read 0x30#7) = .rdBlk2 := rfl
@[simp] theorem decode_read_38 : decode (.read 0x38#7) = .rdBlk3 := rfl
@[simp] theorem decode_read_40 : decode (.read 0x40#7) = .rdState0 := rfl
@[simp] theorem decode_read_48 : decode (.read 0x48#7) = .rdState1 := rfl
@[simp] theorem decode_read_50 : decode (.read 0x50#7) = .rdState2 := rfl
@[simp] theorem decode_read_58 : decode (.read 0x58#7) = .rdState3 := rfl
@[simp] theorem decode_read_60 : decode (.read 0x60#7) = .rdDigest0 := rfl
@[simp] theorem decode_read_68 : decode (.read 0x68#7) = .rdDigest1 := rfl
@[simp] theorem decode_read_70 : decode (.read 0x70#7) = .rdDigest2 := rfl
@[simp] theorem decode_read_78 : decode (.read 0x78#7) = .rdReserved := rfl

@[simp] theorem decode_write_00 (v : Word) : decode (.write 0x00#7 v) = .wrCmd v := by
  simp [decode, Transaction.addr, misalignedBit, decodeWrite]

@[simp] theorem decode_write_08 (v : Word) : decode (.write 0x08#7 v) = .wrStatus v := by
  simp [decode, Transaction.addr, misalignedBit, decodeWrite]

@[simp] theorem decode_write_10 (v : Word) : decode (.write 0x10#7 v) = .wrLen v := by
  simp [decode, Transaction.addr, misalignedBit, decodeWrite]

@[simp] theorem decode_write_18 (v : Word) : decode (.write 0x18#7 v) = .wrParams v := by
  simp [decode, Transaction.addr, misalignedBit, decodeWrite]

@[simp] theorem decode_write_20 (v : Word) : decode (.write 0x20#7 v) = .wrBlk0 v := by
  simp [decode, Transaction.addr, misalignedBit, decodeWrite]

@[simp] theorem decode_write_28 (v : Word) : decode (.write 0x28#7 v) = .wrBlk1 v := by
  simp [decode, Transaction.addr, misalignedBit, decodeWrite]

@[simp] theorem decode_write_30 (v : Word) : decode (.write 0x30#7 v) = .wrBlk2 v := by
  simp [decode, Transaction.addr, misalignedBit, decodeWrite]

@[simp] theorem decode_write_38 (v : Word) : decode (.write 0x38#7 v) = .wrBlk3 v := by
  simp [decode, Transaction.addr, misalignedBit, decodeWrite]

@[simp] theorem decode_write_40 (v : Word) : decode (.write 0x40#7 v) = .wrState0 v := by
  simp [decode, Transaction.addr, misalignedBit, decodeWrite]

@[simp] theorem decode_write_48 (v : Word) : decode (.write 0x48#7 v) = .wrState1 v := by
  simp [decode, Transaction.addr, misalignedBit, decodeWrite]

@[simp] theorem decode_write_50 (v : Word) : decode (.write 0x50#7 v) = .wrState2 v := by
  simp [decode, Transaction.addr, misalignedBit, decodeWrite]

@[simp] theorem decode_write_58 (v : Word) : decode (.write 0x58#7 v) = .wrState3 v := by
  simp [decode, Transaction.addr, misalignedBit, decodeWrite]

@[simp] theorem decode_write_60 (v : Word) : decode (.write 0x60#7 v) = .wrDigest0 v := by
  simp [decode, Transaction.addr, misalignedBit, decodeWrite]

@[simp] theorem decode_write_68 (v : Word) : decode (.write 0x68#7 v) = .wrDigest1 v := by
  simp [decode, Transaction.addr, misalignedBit, decodeWrite]

@[simp] theorem decode_write_70 (v : Word) : decode (.write 0x70#7 v) = .wrDigest2 v := by
  simp [decode, Transaction.addr, misalignedBit, decodeWrite]

@[simp] theorem decode_write_78 (v : Word) : decode (.write 0x78#7 v) = .wrReserved v := by
  simp [decode, Transaction.addr, misalignedBit, decodeWrite]

/-- An offset is aligned exactly when its three low bits are 0 (20_memory.md R55). -/
theorem misalignedBit_eq_none (a : Offset) : misalignedBit a = none ↔ a &&& 7#7 = 0#7 := by
  revert a
  decide

/-- The sixteen aligned offsets of the window (10_state.md R31). -/
def alignedOffsets : List Offset :=
  [0x00#7, 0x08#7, 0x10#7, 0x18#7, 0x20#7, 0x28#7, 0x30#7, 0x38#7, 0x40#7, 0x48#7, 0x50#7, 0x58#7,
   0x60#7, 0x68#7, 0x70#7, 0x78#7]

theorem mem_alignedOffsets {a : Offset} (h : a &&& 7#7 = 0#7) : a ∈ alignedOffsets := by
  revert a
  decide

theorem misalignedBit_le_two {a : Offset} {k : Nat} (h : misalignedBit a = some k) : k ≤ 2 := by
  unfold misalignedBit at h
  split at h
  · cases h; omega
  · split at h
    · cases h; omega
    · split at h
      · cases h; omega
      · cases h

/-- A misaligned transaction is read by one of the three misaligned rows. -/
theorem decode_misaligned {x : Transaction} (h : x.addr &&& 7#7 ≠ 0#7) :
    decode x = .misaligned0 x.data x.addr ∨ decode x = .misaligned1 x.data x.addr ∨
      decode x = .misaligned2 x.data x.addr := by
  unfold decode
  split
  · simp
  · simp
  · simp
  · rename_i h'
    exact absurd ((misalignedBit_eq_none _).mp h') h

/-- A command word is the four fields it is made of (30_encoding.md R70). -/
theorem word_eq_fields (v : Word) : v = res1Field v ++ nm1Field v ++ res0Field v ++ opField v := by
  apply BitVec.eq_of_getLsbD_eq
  intro i hi
  unfold res1Field nm1Field res0Field opField
  rw [BitVec.getLsbD_append, BitVec.getLsbD_append, BitVec.getLsbD_append]
  simp only [BitVec.getLsbD_extractLsb']
  by_cases h1 : i < 4
  · simp [h1]
  · by_cases h2 : i - 4 < 4
    · have e : 4 + (i - 4) = i := by omega
      simp [h1, h2, e]
    · by_cases h3 : i - 4 - 4 < 5
      · have e : 8 + (i - 4 - 4) = i := by omega
        simp [h1, h2, h3, e]
      · have e : 13 + (i - 4 - 4 - 5) = i := by omega
        have e2 : i - 4 - 4 - 5 < 51 := by omega
        simp [h1, h2, h3, e, e2]

end Sys2Proof
end

