-- ==== Sys2Proof/Laws/State.lean ====
section
/-! SUPPORT. What each update of State does to each field, one lemma a field, by definition. -/

namespace Sys2Proof.Machine

variable (s : State)

/-! ## raise -/

@[simp] theorem raise_cfg (e : ErrorKind) : (raise e s).cfg = s.cfg := rfl
@[simp] theorem raise_S (e : ErrorKind) : (raise e s).S = s.S := rfl
@[simp] theorem raise_len (e : ErrorKind) : (raise e s).len = s.len := rfl
@[simp] theorem raise_busy (e : ErrorKind) : (raise e s).busy = s.busy := rfl
@[simp] theorem raise_phase (e : ErrorKind) : (raise e s).phase = s.phase := rfl
@[simp] theorem raise_err (e : ErrorKind) : (raise e s).err = if s.err = 0#4 then e.code else s.err := rfl
@[simp] theorem raise_blk (e : ErrorKind) : (raise e s).blk = s.blk := rfl
@[simp] theorem raise_pend (e : ErrorKind) : (raise e s).pend = s.pend := rfl
@[simp] theorem raise_rst (e : ErrorKind) : (raise e s).rst = s.rst := rfl
@[simp] theorem raise_faulted (e : ErrorKind) : (raise e s).faulted = true := rfl
@[simp] theorem raise_inputs (e : ErrorKind) : (raise e s).inputs = s.inputs := rfl
@[simp] theorem raise_reads (e : ErrorKind) : (raise e s).reads = s.reads := rfl
@[simp] theorem raise_draws (e : ErrorKind) : (raise e s).draws = s.draws := rfl

/-! ## respond -/

@[simp] theorem respond_cfg (v : Word) : (respond v s).cfg = s.cfg := rfl
@[simp] theorem respond_S (v : Word) : (respond v s).S = s.S := rfl
@[simp] theorem respond_len (v : Word) : (respond v s).len = s.len := rfl
@[simp] theorem respond_busy (v : Word) : (respond v s).busy = s.busy := rfl
@[simp] theorem respond_phase (v : Word) : (respond v s).phase = s.phase := rfl
@[simp] theorem respond_err (v : Word) : (respond v s).err = s.err := rfl
@[simp] theorem respond_blk (v : Word) : (respond v s).blk = s.blk := rfl
@[simp] theorem respond_pend (v : Word) : (respond v s).pend = s.pend := rfl
@[simp] theorem respond_rst (v : Word) : (respond v s).rst = s.rst := rfl
@[simp] theorem respond_faulted (v : Word) : (respond v s).faulted = s.faulted := rfl
@[simp] theorem respond_inputs (v : Word) : (respond v s).inputs = s.inputs := rfl
@[simp] theorem respond_reads (v : Word) : (respond v s).reads = v :: s.reads := rfl
@[simp] theorem respond_draws (v : Word) : (respond v s).draws = s.draws := rfl

/-! ## respondAny -/

@[simp] theorem respondAny_cfg : (respondAny s).cfg = s.cfg := rfl
@[simp] theorem respondAny_S : (respondAny s).S = s.S := rfl
@[simp] theorem respondAny_len : (respondAny s).len = s.len := rfl
@[simp] theorem respondAny_busy : (respondAny s).busy = s.busy := rfl
@[simp] theorem respondAny_phase : (respondAny s).phase = s.phase := rfl
@[simp] theorem respondAny_err : (respondAny s).err = s.err := rfl
@[simp] theorem respondAny_blk : (respondAny s).blk = s.blk := rfl
@[simp] theorem respondAny_pend : (respondAny s).pend = s.pend := rfl
@[simp] theorem respondAny_rst : (respondAny s).rst = s.rst := rfl
@[simp] theorem respondAny_faulted : (respondAny s).faulted = s.faulted := rfl
@[simp] theorem respondAny_inputs : (respondAny s).inputs = s.inputs := rfl
@[simp] theorem respondAny_reads : (respondAny s).reads = Config.anyWord s.draws :: s.reads := rfl
@[simp] theorem respondAny_draws : (respondAny s).draws = s.draws + 1 := rfl

/-! ## accept -/

@[simp] theorem accept_cfg (p : Pend) : (accept p s).cfg = s.cfg := rfl
@[simp] theorem accept_S (p : Pend) : (accept p s).S = s.S := rfl
@[simp] theorem accept_len (p : Pend) : (accept p s).len = s.len := rfl
@[simp] theorem accept_busy (p : Pend) : (accept p s).busy = true := rfl
@[simp] theorem accept_phase (p : Pend) : (accept p s).phase = s.phase := rfl
@[simp] theorem accept_err (p : Pend) : (accept p s).err = s.err := rfl
@[simp] theorem accept_blk (p : Pend) : (accept p s).blk = s.blk := rfl
@[simp] theorem accept_pend (p : Pend) : (accept p s).pend = p := rfl
@[simp] theorem accept_rst (p : Pend) : (accept p s).rst = s.rst := rfl
@[simp] theorem accept_faulted (p : Pend) : (accept p s).faulted = s.faulted := rfl
@[simp] theorem accept_inputs (p : Pend) : (accept p s).inputs = s.inputs := rfl
@[simp] theorem accept_reads (p : Pend) : (accept p s).reads = s.reads := rfl
@[simp] theorem accept_draws (p : Pend) : (accept p s).draws = s.draws := rfl

/-! ## complete -/

@[simp] theorem complete_cfg (q : Quad) : (complete q s).cfg = s.cfg := rfl
@[simp] theorem complete_S (q : Quad) : (complete q s).S = q := rfl
@[simp] theorem complete_len (q : Quad) : (complete q s).len = s.len := rfl
@[simp] theorem complete_busy (q : Quad) : (complete q s).busy = false := rfl
@[simp] theorem complete_phase (q : Quad) : (complete q s).phase = s.phase := rfl
@[simp] theorem complete_err (q : Quad) : (complete q s).err = s.err := rfl
@[simp] theorem complete_blk (q : Quad) : (complete q s).blk = s.blk := rfl
@[simp] theorem complete_pend (q : Quad) : (complete q s).pend = .none := rfl
@[simp] theorem complete_rst (q : Quad) : (complete q s).rst = s.rst := rfl
@[simp] theorem complete_faulted (q : Quad) : (complete q s).faulted = s.faulted := rfl
@[simp] theorem complete_inputs (q : Quad) : (complete q s).inputs = s.inputs := rfl
@[simp] theorem complete_reads (q : Quad) : (complete q s).reads = s.reads := rfl
@[simp] theorem complete_draws (q : Quad) : (complete q s).draws = s.draws := rfl

/-! ## coreReset -/

@[simp] theorem coreReset_cfg : (coreReset s).cfg = s.cfg := rfl
@[simp] theorem coreReset_S : (coreReset s).S = s.cfg.raw.iv := rfl
@[simp] theorem coreReset_len : (coreReset s).len = 0#64 := rfl
@[simp] theorem coreReset_busy : (coreReset s).busy = false := rfl
@[simp] theorem coreReset_phase : (coreReset s).phase = phaseOpen := rfl
@[simp] theorem coreReset_err : (coreReset s).err = 0#4 := rfl
@[simp] theorem coreReset_blk : (coreReset s).blk = ⟨0#64, 0#64, 0#64, 0#64⟩ := rfl
@[simp] theorem coreReset_pend : (coreReset s).pend = .none := rfl
@[simp] theorem coreReset_rst : (coreReset s).rst = s.rst := rfl
@[simp] theorem coreReset_faulted : (coreReset s).faulted = s.faulted := rfl
@[simp] theorem coreReset_inputs : (coreReset s).inputs = s.inputs := rfl
@[simp] theorem coreReset_reads : (coreReset s).reads = s.reads := rfl
@[simp] theorem coreReset_draws : (coreReset s).draws = s.draws := rfl

/-! ## consume -/

@[simp] theorem consume_cfg : (consume s).cfg = s.cfg := rfl
@[simp] theorem consume_S : (consume s).S = s.S := rfl
@[simp] theorem consume_len : (consume s).len = s.len := rfl
@[simp] theorem consume_busy : (consume s).busy = s.busy := rfl
@[simp] theorem consume_phase : (consume s).phase = s.phase := rfl
@[simp] theorem consume_err : (consume s).err = s.err := rfl
@[simp] theorem consume_blk : (consume s).blk = s.blk := rfl
@[simp] theorem consume_pend : (consume s).pend = s.pend := rfl
@[simp] theorem consume_rst : (consume s).rst = s.rst := rfl
@[simp] theorem consume_faulted : (consume s).faulted = s.faulted := rfl
@[simp] theorem consume_inputs : (consume s).inputs = s.inputs.tail := rfl
@[simp] theorem consume_reads : (consume s).reads = s.reads := rfl
@[simp] theorem consume_draws : (consume s).draws = s.draws := rfl

/-! ## clearErr -/

@[simp] theorem clearErr_cfg : (clearErr s).cfg = s.cfg := rfl
@[simp] theorem clearErr_S : (clearErr s).S = s.S := rfl
@[simp] theorem clearErr_len : (clearErr s).len = s.len := rfl
@[simp] theorem clearErr_busy : (clearErr s).busy = s.busy := rfl
@[simp] theorem clearErr_phase : (clearErr s).phase = s.phase := rfl
@[simp] theorem clearErr_err : (clearErr s).err = 0#4 := rfl
@[simp] theorem clearErr_blk : (clearErr s).blk = s.blk := rfl
@[simp] theorem clearErr_pend : (clearErr s).pend = s.pend := rfl
@[simp] theorem clearErr_rst : (clearErr s).rst = s.rst := rfl
@[simp] theorem clearErr_faulted : (clearErr s).faulted = s.faulted := rfl
@[simp] theorem clearErr_inputs : (clearErr s).inputs = s.inputs := rfl
@[simp] theorem clearErr_reads : (clearErr s).reads = s.reads := rfl
@[simp] theorem clearErr_draws : (clearErr s).draws = s.draws := rfl

/-! ## blkWrite -/

@[simp] theorem blkWrite_cfg (j : Fin 4) (v : Word) : (blkWrite j v s).cfg = s.cfg := rfl
@[simp] theorem blkWrite_S (j : Fin 4) (v : Word) : (blkWrite j v s).S = s.S := rfl
@[simp] theorem blkWrite_len (j : Fin 4) (v : Word) : (blkWrite j v s).len = s.len := rfl
@[simp] theorem blkWrite_busy (j : Fin 4) (v : Word) : (blkWrite j v s).busy = s.busy := rfl
@[simp] theorem blkWrite_phase (j : Fin 4) (v : Word) : (blkWrite j v s).phase = s.phase := rfl
@[simp] theorem blkWrite_err (j : Fin 4) (v : Word) : (blkWrite j v s).err = s.err := rfl
@[simp] theorem blkWrite_blk (j : Fin 4) (v : Word) : (blkWrite j v s).blk = s.blk.setWord j v := rfl
@[simp] theorem blkWrite_pend (j : Fin 4) (v : Word) : (blkWrite j v s).pend = s.pend := rfl
@[simp] theorem blkWrite_rst (j : Fin 4) (v : Word) : (blkWrite j v s).rst = s.rst := rfl
@[simp] theorem blkWrite_faulted (j : Fin 4) (v : Word) : (blkWrite j v s).faulted = s.faulted := rfl
@[simp] theorem blkWrite_inputs (j : Fin 4) (v : Word) : (blkWrite j v s).inputs = s.inputs := rfl
@[simp] theorem blkWrite_reads (j : Fin 4) (v : Word) : (blkWrite j v s).reads = s.reads := rfl
@[simp] theorem blkWrite_draws (j : Fin 4) (v : Word) : (blkWrite j v s).draws = s.draws := rfl

end Sys2Proof.Machine
end

