-- ==== Sys2Proof/Laws/Ops.lean ====
section
/-! SUPPORT. One lemma for each shared operation that says everything it can do, and the inversion
lemma of `exec`: the effects a transaction can have. -/

namespace Sys2Proof.Machine

theorem raise_eq (e : ErrorKind) (s : State) :
    raise e s = { s with err := if s.err = 0#4 then e.code else s.err, faulted := true } := rfl

theorem code_ne_zero (e : ErrorKind) : e.code ≠ 0#4 := by cases e <;> decide

theorem code_le_five (e : ErrorKind) : e.code.toNat ≤ 5 := by cases e <;> decide

/-- After a raise ERR is not 0, and an earlier code stays (60_exceptions.md R202). -/
theorem raise_err_ne_zero (e : ErrorKind) (s : State) : (raise e s).err ≠ 0#4 := by
  rw [raise_err]
  split
  · exact code_ne_zero e
  · assumption

theorem raise_err_keeps {e : ErrorKind} {s : State} (h : s.err ≠ 0#4) : (raise e s).err = s.err := by
  rw [raise_err, if_neg h]

theorem unlessBusy_cases (k : State → State) (s : State) :
    (s.busy = true ∧ unlessBusy k s = raise .busyErr s) ∨ (s.busy = false ∧ unlessBusy k s = k s) := by
  unfold unlessBusy
  cases s.busy <;> simp

theorem absorbChecked_cases (n : Nat) (s : State) :
    (s.phase ≠ phaseOpen ∧ absorbChecked n s = raise .sequence s) ∨
    (s.phase = phaseOpen ∧ lenMax < s.len.toNat + n ∧ absorbChecked n s = raise .lenOvf s) ∨
    (s.phase = phaseOpen ∧ s.len.toNat + n ≤ lenMax ∧ absorbChecked n s = absorbAccept n s) := by
  unfold absorbChecked
  by_cases hp : s.phase = phaseOpen
  · by_cases hl : s.len.toNat + n > lenMax
    · simp [hp, hl]
    · simp only [gt_iff_lt, not_lt] at hl
      simp [hp, hl, Nat.not_lt.mpr hl]
  · simp [hp]

theorem finalChecked_cases (s : State) :
    (s.phase = phaseDone ∧ finalChecked s = raise .sequence s) ∨
    (s.phase ≠ phaseDone ∧ finalChecked s = finalAccept s) := by
  unfold finalChecked
  by_cases hp : s.phase = phaseDone <;> simp [hp]

theorem stateRead_cases (j : Fin 4) (s : State) :
    (s.busy = true ∧ stateRead j s = respondAny s) ∨
    (s.busy = false ∧ stateRead j s = respond (s.S.word j) s) := by
  unfold stateRead
  cases s.busy <;> simp

theorem misaligned_cases (d : Option Word) (s : State) :
    (d = none ∧ misaligned d s = badRead s) ∨ (∃ v, d = some v ∧ misaligned d s = badWrite s) := by
  cases d <;> simp [misaligned]

theorem engineStep_cases (s : State) :
    (s.pend = .none ∧ engineStep s = s) ∨
    (∃ q, s.pend ≠ .none ∧ engineStep s = complete q s) := by
  unfold engineStep
  cases s.pend with
  | none => simp
  | init => exact .inr ⟨_, by simp, rfl⟩
  | absorb wm => exact .inr ⟨_, by simp, rfl⟩
  | final lb => exact .inr ⟨_, by simp, rfl⟩

/-- The effects the instruction of a transaction can have on a state. -/
inductive Effect (s : State) : Instr → State → Prop where
  /-- NOP, or a write of the word 0. -/
  | quiet (i : Instr) (hi : i = .nop ∨ ∃ v, i = .wrCmd v) (idle : s.busy = false) : Effect s i s
  | answered (i : Instr) (v : Word) : Effect s i (respond v s)
  | answeredAny (i : Instr) (busy : s.busy = true) : Effect s i (respondAny s)
  | rejected (i : Instr) (e : ErrorKind) : Effect s i (raise e s)
  | rejectedRead (i : Instr) : Effect s i (badRead s)
  | cleared (v : Word) : Effect s (.wrStatus v) (clearErr s)
  | stored0 (v : Word) : Effect s (.wrBlk0 v) (blkWrite 0 v s)
  | stored1 (v : Word) : Effect s (.wrBlk1 v) (blkWrite 1 v s)
  | stored2 (v : Word) : Effect s (.wrBlk2 v) (blkWrite 2 v s)
  | stored3 (v : Word) : Effect s (.wrBlk3 v) (blkWrite 3 v s)
  | startedInit (i : Instr) (hi : i = .init ∨ ∃ v, i = .wrCmd v) (idle : s.busy = false) :
      Effect s i (initAccept s)
  | startedAbsorb (i : Instr) (nm1 : BitVec 5) (hi : i = .absorb nm1 ∨ ∃ v, i = .wrCmd v)
      (idle : s.busy = false) (isOpen : s.phase = phaseOpen)
      (fits : s.len.toNat + byteCount nm1 ≤ lenMax) : Effect s i (absorbAccept (byteCount nm1) s)
  | startedFinal (i : Instr) (hi : i = .final ∨ ∃ v, i = .wrCmd v) (idle : s.busy = false)
      (notDone : s.phase ≠ phaseDone) : Effect s i (finalAccept s)

theorem absorbChecked_effect {s : State} (i : Instr) (nm1 : BitVec 5)
    (hi : i = .absorb nm1 ∨ ∃ v, i = .wrCmd v) (idle : s.busy = false) :
    Effect s i (absorbChecked (byteCount nm1) s) := by
  obtain ⟨-, h⟩ | ⟨-, -, h⟩ | ⟨hp, hl, h⟩ := absorbChecked_cases (byteCount nm1) s <;> rw [h]
  · exact .rejected i _
  · exact .rejected i _
  · exact .startedAbsorb i nm1 hi idle hp hl

theorem finalChecked_effect {s : State} (i : Instr) (hi : i = .final ∨ ∃ v, i = .wrCmd v)
    (idle : s.busy = false) : Effect s i (finalChecked s) := by
  obtain ⟨-, h⟩ | ⟨hp, h⟩ := finalChecked_cases s <;> rw [h]
  · exact .rejected i _
  · exact .startedFinal i hi idle hp

theorem unlessBusy_effect {s : State} (i : Instr) (k : State → State)
    (hk : s.busy = false → Effect s i (k s)) : Effect s i (unlessBusy k s) := by
  obtain ⟨-, h⟩ | ⟨hb, h⟩ := unlessBusy_cases k s <;> rw [h]
  · exact .rejected i _
  · exact hk hb

theorem cmdWrite_effect (v : Word) (s : State) : Effect s (.wrCmd v) (cmdWrite v s) := by
  refine unlessBusy_effect _ _ fun idle => ?_
  split
  · exact .rejected _ _
  · rename_i c _
    cases c with
    | nop => exact .quiet _ (.inr ⟨v, rfl⟩) idle
    | init => exact .startedInit _ (.inr ⟨v, rfl⟩) idle
    | absorb nm1 => exact absorbChecked_effect _ nm1 (.inr ⟨v, rfl⟩) idle
    | final => exact finalChecked_effect _ (.inr ⟨v, rfl⟩) idle

theorem stateRead_effect (i : Instr) (j : Fin 4) (s : State) : Effect s i (stateRead j s) := by
  obtain ⟨hb, h⟩ | ⟨-, h⟩ := stateRead_cases j s <;> rw [h]
  · exact .answeredAny i hb
  · exact .answered i _

theorem misaligned_effect (i : Instr) (d : Option Word) (s : State) :
    Effect s i (misaligned d s) := by
  obtain ⟨-, h⟩ | ⟨_, -, h⟩ := misaligned_cases d s <;> rw [h]
  · exact .rejectedRead i
  · exact .rejected i _

/-- What an instruction can do, said once: if `exec` answers a next state, it has one of the effects
of `Effect`. -/
theorem exec_effect {i : Instr} {s t : State} (h : exec i s = .next t) : Effect s i t := by
  cases i <;> cases h
  case nop => exact unlessBusy_effect _ _ fun idle => .quiet _ (.inl rfl) idle
  case init => exact unlessBusy_effect _ _ fun idle => .startedInit _ (.inl rfl) idle
  case absorb nm1 => exact unlessBusy_effect _ _ fun idle => absorbChecked_effect _ nm1 (.inl rfl) idle
  case final => exact unlessBusy_effect _ _ fun idle => finalChecked_effect _ (.inl rfl) idle
  case wrCmd v => exact cmdWrite_effect v s
  case wrStatus v => exact .cleared v
  case wrBlk0 v => exact .stored0 v
  case wrBlk1 v => exact .stored1 v
  case wrBlk2 v => exact .stored2 v
  case wrBlk3 v => exact .stored3 v
  case rdState0 | rdState1 | rdState2 | rdState3 => exact stateRead_effect _ _ s
  case misaligned0 | misaligned1 | misaligned2 => exact misaligned_effect _ _ s
  case rdReserved => exact .rejectedRead _
  case wrReserved | wrLen | wrParams | wrState0 | wrState1 | wrState2 | wrState3 | wrDigest0
      | wrDigest1 | wrDigest2 => exact .rejected _ _
  all_goals exact .answered _ _

/-- What a step can do, said once: it runs the transaction presented, drives `rst`, or turns the
Engine; it stops only on a transaction during reset. -/
theorem step_cases {s t : State} (h : step s = .next t) :
    (s.inputs = [] ∧ t = engineTurn s) ∨
    (∃ es, s.inputs = .engine :: es ∧ t = engineTurn (consume s)) ∨
    (∃ l es, s.inputs = .rst l :: es ∧ t = driveRst l (consume s)) ∨
    (∃ x es, s.inputs = .transaction x :: es ∧ s.rst = false ∧
      exec (decode x) (consume s) = .next t) := by
  unfold step at h
  split at h
  · cases h; exact .inl ⟨by assumption, rfl⟩
  · cases h; exact .inr (.inl ⟨_, by assumption, rfl⟩)
  · cases h; exact .inr (.inr (.inl ⟨_, _, by assumption, rfl⟩))
  · split at h
    · cases h
    · exact .inr (.inr (.inr ⟨_, _, by assumption, by simpa using ‹¬s.rst = true›, h⟩))

end Sys2Proof.Machine
end

