-- ==== Sys2Proof/Laws/Hash.lean ====
section
/-! SUPPORT. The absorption loop does not depend on its bound once that is large enough, and what the
Engine's completion leaves of the settled state. -/

namespace Sys2Proof.Machine

@[simp] theorem absorbLoop_nil (c : Config) (k : Nat) (q : Quad) : absorbLoop c k q [] = q := by
  cases k <;> rfl

/-- Any bound not below the number of bytes gives the same result (41_hash_algorithm.md R119). -/
theorem absorbLoop_bound (c : Config) (k l : Nat) (q : Quad) (m : List Byte)
    (hk : m.length ≤ k) (hl : m.length ≤ l) : absorbLoop c k q m = absorbLoop c l q m := by
  induction k generalizing l q m with
  | zero =>
    obtain rfl : m = [] := List.length_eq_zero_iff.mp (by omega)
    rw [absorbLoop_nil, absorbLoop_nil]
  | succ k ih =>
    cases m with
    | nil => rw [absorbLoop_nil, absorbLoop_nil]
    | cons b m =>
      cases l with
      | zero => simp at hl
      | succ l =>
        simp only [absorbLoop]
        apply ih <;> simp at * <;> omega

theorem settled_of_idle {s : State} (h : s.pend = .none) : settled s = s.S := by
  unfold settled engineStep
  rw [h]

/-- The settled state depends on PEND, S and the configuration alone. -/
theorem settled_congr {s t : State} (h1 : t.pend = s.pend) (h2 : t.S = s.S) (h3 : t.cfg = s.cfg) :
    settled t = settled s := by
  unfold settled engineStep
  rw [h1]
  cases s.pend <;> simp [initComplete, absorbComplete, finalComplete, h2, h3]

end Sys2Proof.Machine
end

