-- ==== Sys2Proof/Laws/HostProgram.lean ====
section
/-! SUPPORT. What an offered event does, and what the host's turn does with each kind of line. -/

namespace Sys2Proof.Machine

theorem offer_transaction {x : Transaction} {s t : State} (open_ : s.rst = false)
    (h : exec (decode x) s = .next t) : offer (.transaction x) s = some t := by
  have hs : step { s with inputs := .transaction x :: s.inputs } = .next t := by
    unfold step
    exact (if_neg (by simp [open_])).trans h
  unfold offer
  rw [hs]

theorem offer_engine {s : State} (open_ : s.rst = false) :
    offer .engine s = some (engineStep s) := by
  have hs : step { s with inputs := .engine :: s.inputs } = .next (engineStep s) := by
    unfold step engineTurn
    exact congrArg Host.Outcome.next (if_neg (by simp [open_]))
  unfold offer
  rw [hs]

/-- Bit 0 of STATUS is BUSY, the bit POLL tests. -/
@[simp] theorem statusWord_bit_zero (s : State) : (statusWord s).getLsbD 0 = s.busy := by
  unfold statusWord
  rw [BitVec.getLsbD_setWidth, BitVec.getLsbD_append]
  simp

theorem turn_wr {prog ls : List Line} {env : List (String × Word)} {r : RegName} {v : Word}
    {s t : State} (h : offer (.transaction (.write r.offset v)) s = some t) :
    Driver.turn ⟨prog, .wr r v :: ls, env⟩ s = some (⟨prog, ls, env⟩, t) := by
  simp [Driver.turn, h]

theorem turn_rd {prog ls : List Line} {env : List (String × Word)} {r : RegName}
    {name : Option String} {s t : State}
    (h : offer (.transaction (.read r.offset)) s = some t) :
    Driver.turn ⟨prog, .rd r name :: ls, env⟩ s =
      some (⟨prog, ls, remember name (t.reads.headD 0#64) env⟩, t) := by
  simp [Driver.turn, h]

theorem turn_label {prog ls : List Line} {env : List (String × Word)} {l : Nat} {s : State} :
    Driver.turn ⟨prog, .label l :: ls, env⟩ s = some (⟨prog, ls, env⟩, s) := rfl

theorem turn_bnz {prog ls ls' : List Line} {env : List (String × Word)} {name : String}
    {bit l : Nat} {v : Word} {s : State} (hv : env.lookup name = some v)
    (hl : below l prog = some ls') :
    Driver.turn ⟨prog, .bnz name bit l :: ls, env⟩ s =
      some (⟨prog, if v.getLsbD bit then ls' else ls, env⟩, s) := by
  simp only [Driver.turn, hv, hl, Option.bind_eq_bind, Option.bind_some, Option.pure_def]
  split <;> rfl

end Sys2Proof.Machine
end

