-- ==== Sys2Proof/Laws/Operands.lean ====
section
/-! SUPPORT. The bounds of ABSORB's count and the exactness of the length counter's addition. -/

namespace Sys2Proof.Machine

/-- The count of ABSORB is 1 to 32 (30_encoding.md R72). -/
theorem byteCount_bounds (nm1 : BitVec 5) : 1 ≤ byteCount nm1 ∧ byteCount nm1 ≤ 32 := by
  have := nm1.isLt
  unfold byteCount
  omega

/-- Within the length bound `LEN + n` does not wrap (42_commands.md R131). -/
theorem toNat_len_add {l : BitVec 64} {n : Nat} (h : l.toNat + n ≤ lenMax) :
    (l + BitVec.ofNat 64 n).toNat = l.toNat + n := by
  simp only [lenMax] at h
  rw [BitVec.toNat_add, BitVec.toNat_ofNat]
  omega

/-- The count field of a count. -/
theorem byteCount_ofNat {n : Nat} (h1 : 1 ≤ n) (h2 : n ≤ 32) :
    byteCount (BitVec.ofNat 5 (n - 1)) = n := by
  unfold byteCount
  rw [BitVec.toNat_ofNat]
  omega

end Sys2Proof.Machine
end

