-- ==== Sys2Proof/Laws/PerInstr.lean ====
section
/-! SUPPORT. The family of per-instruction statements: every well-formed instruction encodes to bits
that fit the row of spec/opcode_table.json it is named after. -/

namespace Sys2Proof

/-- One row of format CMD in spec/opcode_table.json: the word must equal `pattern` on the bits of
`mask` (30_encoding.md R70, R71). -/
structure WordRow where
  mnemonic : String
  pattern : Word
  mask : Word
deriving DecidableEq, Repr

/-- The rows of format CMD. -/
def wordRows : List WordRow :=
  [⟨"NOP", 0x0000000000000000#64, 0xFFFFFFFFFFFFFFFF#64⟩,
   ⟨"INIT", 0x0000000000000001#64, 0xFFFFFFFFFFFFFFFF#64⟩,
   ⟨"ABSORB", 0x0000000000000002#64, 0xFFFFFFFFFFFFE0FF#64⟩,
   ⟨"FINAL", 0x0000000000000003#64, 0xFFFFFFFFFFFFFFFF#64⟩]

/-- The bits fit a row of the table with the given mnemonic. -/
def Encoded.FitsRow (m : String) : Encoded → Prop
  | .cmd w => ∃ r ∈ wordRows, r.mnemonic = m ∧ w &&& r.mask = r.pattern
  | .bus t => ∃ r ∈ keyRows, r.mnemonic = m ∧ r.fits t.key = true

end Sys2Proof

namespace Sys2Proof.Laws

/-- What the family says of one instruction. -/
def EncodesItsRow.Statement (i : Instr) : Prop := i.wf = true → (encode i).FitsRow i.mnemonic

/-- A transaction fits a row when its key does. -/
theorem fitsRow_bus {t : Transaction} {m : String} (k : BitVec 8) (hk : t.key = k)
    (h : keyRows.any (fun r => r.mnemonic == m && r.fits k) = true) : (Encoded.bus t).FitsRow m := by
  obtain ⟨r, hr, hf⟩ := List.any_eq_true.mp h
  rw [Bool.and_eq_true, beq_iff_eq] at hf
  exact ⟨r, hr, hf.1, by rw [hk]; exact hf.2⟩

/-- A command word fits a row when it has the row's fixed bits. -/
theorem fitsRow_cmd {w : Word} {m : String}
    (h : wordRows.any (fun r => r.mnemonic == m && w &&& r.mask == r.pattern) = true) :
    (Encoded.cmd w).FitsRow m := by
  obtain ⟨r, hr, hf⟩ := List.any_eq_true.mp h
  rw [Bool.and_eq_true, beq_iff_eq, beq_iff_eq] at hf
  exact ⟨r, hr, hf.1, hf.2⟩

/-- A read fits a row when its key does. -/
theorem fitsRow_read (m : String) (a : Offset)
    (h : keyRows.any (fun r => r.mnemonic == m && r.fits (0#1 ++ a)) = true) :
    (Encoded.bus (.read a)).FitsRow m := fitsRow_bus _ rfl h

/-- A write fits a row when its key does, whatever its data. -/
theorem fitsRow_write (m : String) (a : Offset) (v : Word)
    (h : keyRows.any (fun r => r.mnemonic == m && r.fits (1#1 ++ a)) = true) :
    (Encoded.bus (.write a v)).FitsRow m := fitsRow_bus _ rfl h

/-- A misaligned transaction, read or write, fits a row when both keys do. -/
theorem fitsRow_misaligned (m : String) (d : Option Word) (a : Offset)
    (h0 : keyRows.any (fun r => r.mnemonic == m && r.fits (0#1 ++ a)) = true)
    (h1 : keyRows.any (fun r => r.mnemonic == m && r.fits (1#1 ++ a)) = true) :
    (Encoded.bus (.of d a)).FitsRow m := by
  cases d with
  | none => exact fitsRow_read m a h0
  | some v => exact fitsRow_write m a v h1

namespace EncodesItsRow

theorem nop : Statement .nop := fun _ => fitsRow_cmd (by decide)

theorem init : Statement .init := fun _ => fitsRow_cmd (by decide)

theorem absorb (nm1 : BitVec 5) : Statement (.absorb nm1) := fun _ =>
  fitsRow_cmd (by revert nm1; decide)

theorem final : Statement .final := fun _ => fitsRow_cmd (by decide)

theorem wrCmd (v : Word) : Statement (.wrCmd v) := fun _ =>
  fitsRow_write "WR_CMD" 0x00#7 v (by decide)

theorem rdCmd : Statement .rdCmd := fun _ =>
  fitsRow_read "RD_CMD" 0x00#7 (by decide)

theorem rdStatus : Statement .rdStatus := fun _ =>
  fitsRow_read "RD_STATUS" 0x08#7 (by decide)

theorem wrStatus (v : Word) : Statement (.wrStatus v) := fun _ =>
  fitsRow_write "WR_STATUS" 0x08#7 v (by decide)

theorem rdLen : Statement .rdLen := fun _ =>
  fitsRow_read "RD_LEN" 0x10#7 (by decide)

theorem rdParams : Statement .rdParams := fun _ =>
  fitsRow_read "RD_PARAMS" 0x18#7 (by decide)

theorem rdBlk0 : Statement .rdBlk0 := fun _ =>
  fitsRow_read "RD_BLK0" 0x20#7 (by decide)

theorem rdBlk1 : Statement .rdBlk1 := fun _ =>
  fitsRow_read "RD_BLK1" 0x28#7 (by decide)

theorem rdBlk2 : Statement .rdBlk2 := fun _ =>
  fitsRow_read "RD_BLK2" 0x30#7 (by decide)

theorem rdBlk3 : Statement .rdBlk3 := fun _ =>
  fitsRow_read "RD_BLK3" 0x38#7 (by decide)

theorem wrBlk0 (v : Word) : Statement (.wrBlk0 v) := fun _ =>
  fitsRow_write "WR_BLK0" 0x20#7 v (by decide)

theorem wrBlk1 (v : Word) : Statement (.wrBlk1 v) := fun _ =>
  fitsRow_write "WR_BLK1" 0x28#7 v (by decide)

theorem wrBlk2 (v : Word) : Statement (.wrBlk2 v) := fun _ =>
  fitsRow_write "WR_BLK2" 0x30#7 v (by decide)

theorem wrBlk3 (v : Word) : Statement (.wrBlk3 v) := fun _ =>
  fitsRow_write "WR_BLK3" 0x38#7 v (by decide)

theorem rdState0 : Statement .rdState0 := fun _ =>
  fitsRow_read "RD_STATE0" 0x40#7 (by decide)

theorem rdState1 : Statement .rdState1 := fun _ =>
  fitsRow_read "RD_STATE1" 0x48#7 (by decide)

theorem rdState2 : Statement .rdState2 := fun _ =>
  fitsRow_read "RD_STATE2" 0x50#7 (by decide)

theorem rdState3 : Statement .rdState3 := fun _ =>
  fitsRow_read "RD_STATE3" 0x58#7 (by decide)

theorem rdDigest0 : Statement .rdDigest0 := fun _ =>
  fitsRow_read "RD_DIGEST0" 0x60#7 (by decide)

theorem rdDigest1 : Statement .rdDigest1 := fun _ =>
  fitsRow_read "RD_DIGEST1" 0x68#7 (by decide)

theorem rdDigest2 : Statement .rdDigest2 := fun _ =>
  fitsRow_read "RD_DIGEST2" 0x70#7 (by decide)

theorem wrLen (v : Word) : Statement (.wrLen v) := fun _ =>
  fitsRow_write "WR_LEN__read-only__BAD_ACCESS" 0x10#7 v (by decide)

theorem wrParams (v : Word) : Statement (.wrParams v) := fun _ =>
  fitsRow_write "WR_PARAMS__read-only__BAD_ACCESS" 0x18#7 v (by decide)

theorem wrState0 (v : Word) : Statement (.wrState0 v) := fun _ =>
  fitsRow_write "WR_STATE0__read-only__BAD_ACCESS" 0x40#7 v (by decide)

theorem wrState1 (v : Word) : Statement (.wrState1 v) := fun _ =>
  fitsRow_write "WR_STATE1__read-only__BAD_ACCESS" 0x48#7 v (by decide)

theorem wrState2 (v : Word) : Statement (.wrState2 v) := fun _ =>
  fitsRow_write "WR_STATE2__read-only__BAD_ACCESS" 0x50#7 v (by decide)

theorem wrState3 (v : Word) : Statement (.wrState3 v) := fun _ =>
  fitsRow_write "WR_STATE3__read-only__BAD_ACCESS" 0x58#7 v (by decide)

theorem wrDigest0 (v : Word) : Statement (.wrDigest0 v) := fun _ =>
  fitsRow_write "WR_DIGEST0__read-only__BAD_ACCESS" 0x60#7 v (by decide)

theorem wrDigest1 (v : Word) : Statement (.wrDigest1 v) := fun _ =>
  fitsRow_write "WR_DIGEST1__read-only__BAD_ACCESS" 0x68#7 v (by decide)

theorem wrDigest2 (v : Word) : Statement (.wrDigest2 v) := fun _ =>
  fitsRow_write "WR_DIGEST2__read-only__BAD_ACCESS" 0x70#7 v (by decide)

theorem rdReserved : Statement .rdReserved := fun _ =>
  fitsRow_read "RD__0x78__reserved__BAD_ACCESS" 0x78#7 (by decide)

theorem wrReserved (v : Word) : Statement (.wrReserved v) := fun _ =>
  fitsRow_write "WR__0x78__reserved__BAD_ACCESS" 0x78#7 v (by decide)

theorem misaligned0 (d : Option Word) (a : Offset) : Statement (.misaligned0 d a) := by
  intro h
  have hb : misalignedBit a = some 0 := by simpa [Instr.wf] using h
  clear h
  refine fitsRow_misaligned "MISALIGNED__addr_0____1__BAD_ACCESS" d a ?_ ?_ <;>
    (revert hb; revert a; decide +kernel)

theorem misaligned1 (d : Option Word) (a : Offset) : Statement (.misaligned1 d a) := by
  intro h
  have hb : misalignedBit a = some 1 := by simpa [Instr.wf] using h
  clear h
  refine fitsRow_misaligned "MISALIGNED__addr_1____1__BAD_ACCESS" d a ?_ ?_ <;>
    (revert hb; revert a; decide +kernel)

theorem misaligned2 (d : Option Word) (a : Offset) : Statement (.misaligned2 d a) := by
  intro h
  have hb : misalignedBit a = some 2 := by simpa [Instr.wf] using h
  clear h
  refine fitsRow_misaligned "MISALIGNED__addr_2____1__BAD_ACCESS" d a ?_ ?_ <;>
    (revert hb; revert a; decide +kernel)

end EncodesItsRow

end Sys2Proof.Laws
end

