-- ==== Sys2Proof/Laws/Run.lean ====
section
/-! SUPPORT. How runs of several steps are built from steps. -/

namespace Sys2Proof.Machine

theorem run_succ_of_next (k : Nat) {s t : State} (h : step s = .next t) :
    core.run (k + 1) s = core.run k t := by
  have h' : core.step s = .next t := h
  simp only [Host.Core.run]
  rw [h']

theorem next_of_run_succ (k : Nat) {s t : State} (h : core.run (k + 1) s = .next t) :
    ∃ u, step s = .next u ∧ core.run k u = .next t := by
  simp only [Host.Core.run] at h
  split at h
  · exact ⟨_, by assumption, h⟩
  · cases h
  · cases h

/-- A run of `a + b` steps is a run of `a` and then one of `b`. -/
theorem run_add (a b : Nat) {s u : State} (h : core.run a s = .next u) :
    core.run (a + b) s = core.run b u := by
  induction a generalizing s with
  | zero => cases h; rw [Nat.zero_add]
  | succ a ih =>
    obtain ⟨v, hv, hr⟩ := next_of_run_succ a h
    rw [Nat.add_right_comm, run_succ_of_next _ hv]
    exact ih hr

/-- Invariants of every step are invariants of every run. -/
theorem run_keeps (P : State → Prop) (hstep : ∀ s t, P s → step s = .next t → P t) :
    ∀ (k : Nat) {s t : State}, P s → core.run k s = .next t → P t
  | 0, _, _, hs, h => by cases h; exact hs
  | k + 1, _, _, hs, h => by
    obtain ⟨u, hu, hr⟩ := next_of_run_succ k h
    exact run_keeps P hstep k (hstep _ _ hs hu) hr

end Sys2Proof.Machine
end

