-- ==== Sys2Proof/Tests/Slice0.lean ====
section
/-! SUPPORT. Tests of one step each, expected values from 95_test_vectors.md or from the rule cited,
and the witnesses of the statements' hypotheses. -/

namespace Sys2Proof.Tests

open Sys2Proof Sys2Proof.Machine

set_option Elab.async false

/-! ## Helpers -/

/-- The next state of an instruction, or the state unchanged where there is none. -/
def ran (i : Instr) (s : State) : State :=
  match exec i s with
  | .next t => t
  | .fault _ | .refused _ => s

/-- The next state of a step, or the state unchanged where there is none. -/
def stepped (s : State) : State :=
  match step s with
  | .next t => t
  | .fault _ | .refused _ => s

/-- A step answers a next state. -/
def goesOn (s : State) : Bool :=
  match step s with
  | .next _ => true
  | .fault _ | .refused _ => false

/-- BLK of program P2, with bytes past the message (95_test_vectors.md section 2.4). -/
def p2Blk : Quad :=
  ⟨0x3736353433323130, 0xDEADBEEFCAFE3938, 0x1111111111111111, 0x2222222222222222⟩

/-- After reset, BLK loaded. -/
def loaded : State := { State.reset with blk := p2Blk }

/-- ABSORB 10 accepted and not completed. -/
def busyAbsorb : State := ran (.absorb 9#5) loaded

/-- INIT accepted and not completed. -/
def busyInit : State := ran .init State.reset

/-- FINAL accepted and not completed, after reset. -/
def busyFinal : State := ran .final State.reset

/-- The empty message's hash complete. -/
def doneEmpty : State := engineStep busyFinal

/-- Idle, OPEN, `LEN = 2^61 - 32`. -/
def nearFull : State := { State.reset with len := 0x1FFFFFFFFFFFFFE0 }

/-- Idle, TAIL, `LEN = 10`. -/
def inTail : State := { State.reset with len := 10, phase := phaseTail }

/-- A recorded SEQUENCE error. -/
def withErr : State := { State.reset with err := 4, faulted := true }

/-- Profile B (95_test_vectors.md section 2.9). -/
def rawB : RawConfig :=
  { RawConfig.th1 with roundsBlock := 6, roundsFinal := 12, swapSel := .swap23, paramId := 0xB }

theorem legal_rawB : rawB.legal = true := by decide

def cfgB : Config := ⟨rawB, legal_rawB⟩

/-! ## Well-formedness: each check refuses an ill-formed term -/

theorem wellFormed_misaligned0_refuses_an_aligned_offset :
    (Instr.misaligned0 none 0x08#7).wf = false := by decide

theorem wellFormed_misaligned0_refuses_bit_0_clear :
    (Instr.misaligned0 (some 5#64) 0x0A#7).wf = false := by decide

theorem wellFormed_misaligned1_refuses_bit_0_set :
    (Instr.misaligned1 none 0x03#7).wf = false := by decide

theorem wellFormed_misaligned2_refuses_bit_1_set :
    (Instr.misaligned2 none 0x06#7).wf = false := by decide

theorem wellFormed_accepts_each_misaligned_row :
    (Instr.misaligned0 none 0x07#7).wf = true ∧ (Instr.misaligned1 none 0x06#7).wf = true ∧
    (Instr.misaligned2 (some 0#64) 0x04#7).wf = true := by decide

/-! ## Illegal configurations have no value (00_scope.md R5) -/

theorem config_refuses_rotation_by_0 :
    Config.check { RawConfig.th1 with rot := [(16, 28), (0, 57)] } = none := by decide

theorem config_refuses_rotation_by_64 :
    Config.check { RawConfig.th1 with rot := [(16, 64)] } = none := by decide

theorem config_refuses_an_empty_table :
    Config.check { RawConfig.th1 with rot := [] } = none := by decide

theorem config_refuses_few_final_rounds :
    Config.check { RawConfig.th1 with roundsFinal := 13 } = none := by decide

theorem config_accepts_th1 : (Config.check RawConfig.th1).isSome = true := by decide

/-! ## Decoding: words and keys written out from 30_encoding.md R70 to R76 -/

-- RES1 (51 bits), NM1, RES0, OP.
theorem decode_nop : decodeTableWord 64 0b00000_0000_0000 = some .nop := by decide
theorem decode_init : decodeTableWord 64 0b00000_0000_0001 = some .init := by decide
theorem decode_final : decodeTableWord 64 0b00000_0000_0011 = some .final := by decide
theorem decode_absorb_10 : decodeTableWord 64 0b01001_0000_0010 = some (.absorb 9#5) := by decide
theorem decode_absorb_1 : decodeTableWord 64 0b00000_0000_0010 = some (.absorb 0#5) := by decide
theorem decode_absorb_32 : decodeTableWord 64 0b11111_0000_0010 = some (.absorb 31#5) := by decide

-- 95_test_vectors.md section 2.10.
theorem decode_refuses_nop_with_count : decodeCommand 0x100 = .error .strayCount := by decide
theorem decode_refuses_final_with_count : decodeCommand 0x103 = .error .strayCount := by decide
theorem decode_refuses_reserved_op : decodeCommand 0xF = .error .reservedOp := by decide
theorem decode_refuses_res1 : decodeCommand 0x11F02 = .error .reservedField := by decide
theorem decode_refuses_res0 : decodeCommand 0xF2 = .error .reservedField := by decide

-- The key: bus_we, then bus_addr[6] down to bus_addr[0].
theorem decode_wr_cmd : decodeTableWord 8 0b1_0000000 = some (.wrCmd 0) := by decide
theorem decode_rd_cmd : decodeTableWord 8 0b0_0000000 = some .rdCmd := by decide
theorem decode_rd_status : decodeTableWord 8 0b0_0001000 = some .rdStatus := by decide
theorem decode_wr_status : decodeTableWord 8 0b1_0001000 = some (.wrStatus 0) := by decide
theorem decode_rd_len : decodeTableWord 8 0b0_0010000 = some .rdLen := by decide
theorem decode_rd_params : decodeTableWord 8 0b0_0011000 = some .rdParams := by decide
theorem decode_rd_blk3 : decodeTableWord 8 0b0_0111000 = some .rdBlk3 := by decide
theorem decode_wr_blk1 : decodeTableWord 8 0b1_0101000 = some (.wrBlk1 0) := by decide
theorem decode_rd_state2 : decodeTableWord 8 0b0_1010000 = some .rdState2 := by decide
theorem decode_rd_digest0 : decodeTableWord 8 0b0_1100000 = some .rdDigest0 := by decide
theorem decode_wr_len : decodeTableWord 8 0b1_0010000 = some (.wrLen 0) := by decide
theorem decode_wr_state3 : decodeTableWord 8 0b1_1011000 = some (.wrState3 0) := by decide
theorem decode_wr_reserved : decodeTableWord 8 0b1_1111000 = some (.wrReserved 0) := by decide
theorem decode_misaligned_bit_0 :
    decodeTableWord 8 0b1_0000001 = some (.misaligned0 (some 0) 1) := by decide
theorem decode_misaligned_bit_1 :
    decodeTableWord 8 0b0_0000010 = some (.misaligned1 none 2) := by decide
theorem decode_misaligned_bit_2 :
    decodeTableWord 8 0b0_0001100 = some (.misaligned2 none 0x0C) := by decide

theorem decode_takes_write_data :
    decodeTableWord 72 0x1122334455667788A8 = some (.wrBlk1 0x1122334455667788) := by decide

/-! ## The permutation (95_test_vectors.md sections 2.1 to 2.3) -/

theorem test_rotl64_by_28 : rotl64 0x0123456789abcdef 28 = 0x789abcdef0123456 := by decide
theorem test_rotl64_by_63 : rotl64 0x0123456789abcdef 63 = 0x8091a2b3c4d5e6f7 := by decide

theorem test_round_uses_the_new_word_0 :
    mixRound Config.th1 ⟨0, 0, 1, 0⟩ 0 = ⟨0, 1, 0x10001, 0⟩ := by decide +kernel

theorem test_round_swaps_words_2_and_3 :
    mixRound cfgB ⟨0, 0, 1, 0⟩ 0 = ⟨1, 0, 0, 0x10001⟩ := by decide +kernel

theorem test_round_5_uses_pair_5 :
    mixRound Config.th1 ⟨0, 0, 1, 1⟩ 5 =
      ⟨1, 1, 0x0800000000000001, 0x0000010000000001⟩ := by decide +kernel

theorem test_mix_iv_7 :
    mix Config.th1 RawConfig.th1.iv 7 =
      ⟨0x2980e615b44ed4ba, 0xcb23a38737a66df9, 0xc0ff7d805c57c41c, 0xcc446c5a31ded6f8⟩ := by
  decide +kernel

theorem test_mix_iv_14 :
    mix Config.th1 RawConfig.th1.iv 14 =
      ⟨0xedb8767a3b21c868, 0xb37b71d8b3dd7d26, 0x5753676e0acce7b6, 0xc71fbe2e7de3e496⟩ := by
  decide +kernel

theorem test_mix_profile_B :
    mix cfgB RawConfig.th1.iv 6 =
      ⟨0x8e998197640c5598, 0xe3e7b13eeb24af08, 0xefaf50b08502d739, 0xf20add616763496e⟩ := by
  decide +kernel

theorem test_invRound :
    invRound Config.th1 ⟨0, 1, 0x10001, 0⟩ 0 = ⟨0, 0, 1, 0⟩ := by decide +kernel

/-! ## The padding mask and the hash (95_test_vectors.md sections 2.4 to 2.8) -/

theorem test_byteMask_25 :
    (byteMask 25 0, byteMask 25 1, byteMask 25 2, byteMask 25 3) =
      (0xFFFFFFFFFFFFFFFF, 0xFFFFFFFFFFFFFFFF, 0xFFFFFFFFFFFFFFFF, 0xFF) := by decide +kernel

theorem test_maskedBlock_10 :
    maskedBlock p2Blk 10 = ⟨0x3736353433323130, 0x3938, 0, 0⟩ := by decide +kernel

-- 90_conflicts.md C1: 32 bytes make one block, with no empty block after it.
theorem test_hash_of_32_bytes_has_one_block :
    finalState Config.th1 ((List.range 32).map (BitVec.ofNat 8)) =
      ⟨0x173adc099d340b06, 0xe820feefb5462fe7, 0xd819def0a00f1d98, 0x300c376f234eef95⟩ := by
  decide +kernel

theorem test_hash_of_no_bytes :
    tentHash Config.th1 [] = some [0x68, 0xc8, 0x21, 0x3b, 0x7a, 0x76, 0xb8, 0xed, 0x26, 0x7d, 0xdd,
      0xb3, 0xd8, 0x71, 0x7b, 0xb3, 0xb6, 0xe7, 0xcc, 0x0a] := by decide +kernel

/-! ## Commands (95_test_vectors.md section 2.11) -/

theorem test_nop_after_reset : ran .nop State.reset = State.reset := by decide +kernel

theorem test_nop_while_busy : statusWord (ran .nop busyAbsorb) = 0x303 := by decide +kernel

theorem test_init_from_done :
    statusWord (ran .init { doneEmpty with len := 44 }) = 0x1 ∧
    (ran .init { doneEmpty with len := 44 }).len = 0 := by decide +kernel

theorem test_init_keeps_err :
    statusWord (ran .init { inTail with err := 4 }) = 0x401 := by decide +kernel

theorem test_absorb_10_latches_the_masked_block :
    busyAbsorb.pend = .absorb ⟨0x3736353433323130, 0x3938, 0, 0⟩ ∧ statusWord busyAbsorb = 0x3 ∧
    busyAbsorb.len = 10 ∧ busyAbsorb.blk = p2Blk := by decide +kernel

theorem test_absorb_to_and_past_the_length_bound :
    (ran (.absorb 30#5) nearFull).len = 0x1FFFFFFFFFFFFFFF ∧
    statusWord (ran (.absorb 31#5) nearFull) = 0x500 := by decide +kernel

theorem test_final_latches_the_bit_length :
    (ran .final inTail).pend = .final 0x50 ∧ statusWord (ran .final inTail) = 0x5 := by
  decide +kernel

theorem test_final_twice : statusWord (ran .final doneEmpty) = 0x404 := by decide +kernel

theorem test_wrCmd_busy_before_illegal :
    statusWord (ran (.wrCmd 0x2002) busyAbsorb) = 0x303 := by decide +kernel

theorem test_wrCmd_illegal_keeps_the_first_error :
    statusWord (ran (.wrCmd 0x4) State.reset) = 0x200 ∧
    statusWord (ran (.wrCmd 0x4) withErr) = 0x400 := by decide +kernel

theorem test_absorb_completion :
    (engineStep busyAbsorb).S =
      ⟨0xec4d4e3311d7f6ef, 0x62d15a2b5593e481, 0xae9665eee154d11b, 0x716c44392232cd24⟩ := by
  decide +kernel

theorem test_init_completion :
    (engineStep busyInit).S = RawConfig.th1.iv ∧ (engineStep busyInit).busy = false := by
  decide +kernel

/-! ## Registers (95_test_vectors.md section 2.12) -/

theorem test_rdCmd : (ran .rdCmd busyAbsorb).reads = [0] := by decide +kernel
theorem test_rdStatus : (ran .rdStatus busyAbsorb).reads = [0x3] := by decide +kernel
theorem test_wrStatus_clears_err :
    statusWord (ran (.wrStatus 0xFFFFFFFFFFFFFFFF) { inTail with err := 4 }) = 0x2 := by
  decide +kernel
theorem test_rdLen : (ran .rdLen { inTail with len := 44 }).reads = [0x2C] := by decide +kernel
theorem test_rdParams_th1 : (ran .rdParams State.reset).reads = [0x0000000107000E07] := by
  decide +kernel
theorem test_rdParams_B : (ran .rdParams (State.resetOf cfgB)).reads = [0x0000000B07010C06] := by
  decide +kernel
theorem test_rdBlk0 : (ran .rdBlk0 loaded).reads = [0x3736353433323130] := by decide +kernel
theorem test_rdBlk1 : (ran .rdBlk1 loaded).reads = [0xDEADBEEFCAFE3938] := by decide +kernel
theorem test_rdBlk2 : (ran .rdBlk2 loaded).reads = [0x1111111111111111] := by decide +kernel
theorem test_rdBlk3 : (ran .rdBlk3 loaded).reads = [0x2222222222222222] := by decide +kernel
theorem test_wrBlk0 : (ran (.wrBlk0 7) loaded).blk = { p2Blk with w0 := 7 } := by decide +kernel
theorem test_wrBlk1_while_busy :
    (ran (.wrBlk1 0x1122334455667788) busyAbsorb).blk =
      { p2Blk with w1 := 0x1122334455667788 } := by decide +kernel
theorem test_wrBlk2 : (ran (.wrBlk2 7) loaded).blk = { p2Blk with w2 := 7 } := by decide +kernel
theorem test_wrBlk3 : (ran (.wrBlk3 7) loaded).blk = { p2Blk with w3 := 7 } := by decide +kernel
theorem test_rdState0 : (ran .rdState0 State.reset).reads = [0x5d6daffc4411a967] := by
  decide +kernel
theorem test_rdState1 : (ran .rdState1 State.reset).reads = [0xe22d4dea68577f34] := by
  decide +kernel
theorem test_rdState2 : (ran .rdState2 State.reset).reads = [0xca50864d814cbc2e] := by
  decide +kernel
theorem test_rdState3 : (ran .rdState3 State.reset).reads = [0x894e29b9611eb173] := by
  decide +kernel
-- The value is free (43_register_access.md R160); what is fixed is that one is returned.
theorem test_rdState0_while_busy :
    (ran .rdState0 busyAbsorb).reads.length = 1 ∧ (ran .rdState0 busyAbsorb).pend = busyAbsorb.pend :=
  ⟨rfl, rfl⟩
theorem test_rdDigest0 : (ran .rdDigest0 doneEmpty).reads = [0xedb8767a3b21c868] := by
  decide +kernel
theorem test_rdDigest1 : (ran .rdDigest1 doneEmpty).reads = [0xb37b71d8b3dd7d26] := by
  decide +kernel
theorem test_rdDigest2 : (ran .rdDigest2 doneEmpty).reads = [0x000000000acce7b6] := by
  decide +kernel
theorem test_rdDigest0_while_busy : (ran .rdDigest0 busyFinal).reads = [0] := by decide +kernel

/-! ## BAD_ACCESS (95_test_vectors.md section 2.12) -/

theorem test_wrLen : statusWord (ran (.wrLen 0) inTail) = 0x102 ∧ (ran (.wrLen 0) inTail).len = 10 := by
  decide +kernel
theorem test_wrParams : (ran (.wrParams 0) State.reset).err = 1 := by decide +kernel
theorem test_wrState0 :
    (ran (.wrState0 0) State.reset).err = 1 ∧ (ran (.wrState0 0) State.reset).S = RawConfig.th1.iv := by
  decide +kernel
theorem test_wrState1 : (ran (.wrState1 0) State.reset).err = 1 := by decide +kernel
theorem test_wrState2 : (ran (.wrState2 0) State.reset).err = 1 := by decide +kernel
theorem test_wrState3 : (ran (.wrState3 0) State.reset).err = 1 := by decide +kernel
theorem test_wrDigest0 : (ran (.wrDigest0 0) State.reset).err = 1 := by decide +kernel
theorem test_wrDigest1 : (ran (.wrDigest1 0) State.reset).err = 1 := by decide +kernel
theorem test_wrDigest2 : (ran (.wrDigest2 0) State.reset).err = 1 := by decide +kernel
theorem test_rdReserved :
    (ran .rdReserved { State.reset with err := 3 }).err = 3 ∧
    (ran .rdReserved { State.reset with err := 3 }).reads = [0] := by decide +kernel
theorem test_wrReserved : (ran (.wrReserved 5) State.reset).err = 1 := by decide +kernel
theorem test_misaligned0_write_issues_no_command :
    (ran (.misaligned0 (some 1) 1) State.reset).err = 1 ∧
    (ran (.misaligned0 (some 1) 1) State.reset).busy = false ∧
    (ran (.misaligned0 (some 1) 1) State.reset).reads = [] := by decide +kernel
theorem test_misaligned1_read :
    (ran (.misaligned1 none 2) State.reset).err = 1 ∧
    (ran (.misaligned1 none 2) State.reset).reads = [0] := by decide +kernel
theorem test_misaligned2_read :
    (ran (.misaligned2 none 0x0C) State.reset).err = 1 ∧
    (ran (.misaligned2 none 0x0C) State.reset).reads = [0] := by decide +kernel

/-! ## Reset (95_test_vectors.md section 2.13) -/

theorem test_reset_abandons_absorb :
    coreReset busyAbsorb = { State.reset with blk := ⟨0, 0, 0, 0⟩ } := by decide +kernel

theorem test_placed_word_runs_first :
    stepped (State.reset.withFetchWord 64 0x3) = busyFinal := by decide +kernel

/-! ## Witnesses: concrete states and operands that meet each statement's hypotheses -/

/-- `busyAbsorb` with an event next. -/
def busyWith (es : List Event) : State := { busyAbsorb with inputs := es }

/-- After reset with an event next. -/
def idleWith (es : List Event) : State := { State.reset with inputs := es }

/-- In reset, with an event next and an operation pending. -/
def heldWith (es : List Event) : State := { busyAbsorb with rst := true, inputs := es }

theorem inv_busyAbsorb : busyAbsorb.Inv :=
  ⟨by decide +kernel, by decide +kernel, by decide +kernel, by decide +kernel, by decide +kernel,
   by decide +kernel⟩

theorem inv_nearFull : nearFull.Inv :=
  ⟨by decide +kernel, by decide +kernel, by decide +kernel, by decide +kernel, by decide +kernel,
   by decide +kernel⟩

theorem tracks_doneEmpty : Tracks [] doneEmpty :=
  ⟨by decide +kernel, by decide +kernel, by decide +kernel, by decide +kernel, by decide +kernel,
   by decide +kernel, by decide +kernel⟩

theorem tracks_loaded : Tracks [] { loaded with inputs := [.transaction (.write 0x00 0x902)] } :=
  ⟨by decide +kernel, by decide +kernel, by decide +kernel, by decide +kernel, by decide +kernel,
   by decide +kernel, by decide +kernel⟩

theorem witness_ResetHoldsTheSpecValues :
    ∃ s r : State, s.busy = true ∧ (r = coreReset s ∨ r = State.resetOf s.cfg) :=
  ⟨busyAbsorb, coreReset busyAbsorb, rfl, .inl rfl⟩

theorem witness_ResetEdgeAbandonsThePendingOperation :
    (heldWith []).resetEdge = true ∧ (heldWith [.engine]).resetEdge = true ∧
    (busyWith [.rst true]).resetEdge = true ∧ (busyWith [.rst true]).pend ≠ .none ∧
    (heldWith [.rst false]).inputs = [.rst false] := by
  decide +kernel

theorem witness_TransactionDuringResetIsStuck :
    (heldWith [.transaction (.read 0x08)]).rst = true ∧
    (heldWith [.transaction (.read 0x08)]).inputs = [.transaction (.read 0x08)] ∧
    step (heldWith [.transaction (.read 0x08)]) = .fault .transactionDuringReset := ⟨rfl, rfl, rfl⟩

theorem witness_StepKeepsTheStateInvariants :
    busyAbsorb.Inv ∧ step busyAbsorb = .next (stepped busyAbsorb) ∧
    core.run 1 { State.resetOf Config.th1 with inputs := [.transaction (.write 0x00 3)] } =
      .next (stepped (idleWith [.transaction (.write 0x00 3)])) := ⟨inv_busyAbsorb, rfl, rfl⟩

theorem witness_FaultMarkIsNeverCleared :
    step { withErr with inputs := [.transaction (.write 0x08 0)] } =
      .next (stepped { withErr with inputs := [.transaction (.write 0x08 0)] }) ∧
    withErr.faulted = true ∧ withErr.err ≠ 0#4 ∧ withErr.Marked := ⟨rfl, rfl, by decide, fun _ => rfl⟩

theorem witness_ConfigurationIsNeverWritten :
    step (busyWith [.rst true]) = .next (stepped (busyWith [.rst true])) := rfl

theorem witness_OnlyTheEngineAndResetWriteTheState :
    exec .init loaded = .next (ran .init loaded) ∧
    goesOn (busyWith [.engine]) = true ∧ (stepped (busyWith [.engine])).S ≠ busyAbsorb.S ∧
    goesOn { doneEmpty with inputs := [.rst true] } = true ∧
    (stepped { doneEmpty with inputs := [.rst true] }).S ≠ doneEmpty.S :=
  ⟨rfl, by decide +kernel, by decide +kernel, by decide +kernel, by decide +kernel⟩

theorem witness_OnlyTheHostWritesTheBlockRegisters :
    goesOn (busyWith [.transaction (.write 0x38 5)]) = true ∧
    (stepped (busyWith [.transaction (.write 0x38 5)])).blk ≠ busyAbsorb.blk ∧
    goesOn (busyWith [.rst true]) = true ∧ (stepped (busyWith [.rst true])).blk ≠ busyAbsorb.blk := by
  decide +kernel

theorem witness_OnlyCommandWritesMoveTheSequencer :
    (busyWith [.transaction (.write 0x01 3)]).inputs = [.transaction (.write 0x01 3)] ∧
    (∀ v, Transaction.write 0x01 3 ≠ .write 0x00 v) ∧
    step (busyWith [.transaction (.write 0x01 3)]) =
      .next (stepped (busyWith [.transaction (.write 0x01 3)])) :=
  ⟨rfl, fun v h => by injection h with h _; exact absurd h (by decide), rfl⟩

theorem witness_ErrClearsOnlyByStatusWriteOrReset :
    (withErr.err ≠ 0#4 ∧ { withErr with inputs := [.engine] }.resetEdge = false ∧
      goesOn { withErr with inputs := [.engine] } = true) ∧
    { withErr with inputs := [.transaction (.write 0x08 9)] }.inputs =
      [.transaction (.write 0x08 9)] ∧
    ({ withErr with inputs := [.rst true] }.resetEdge = true ∧
      goesOn { withErr with inputs := [.rst true] } = true) := by decide +kernel

theorem witness_StepRunsThePresentedTransaction :
    (idleWith [.transaction (.read 0x78)]).rst = false ∧
    (idleWith [.transaction (.read 0x78)]).inputs = [.transaction (.read 0x78)] := ⟨rfl, rfl⟩

theorem witness_StepRunsTheCommandWord :
    (idleWith [.transaction (.write 0x00 0x1F02)]).inputs = [.transaction (.write 0x00 0x1F02)] ∧
    decodeCommand 0x1F02 = .ok (.absorb 31#5) := ⟨rfl, by decide⟩

theorem witness_PlacedRowIsRunNext :
    decodeTableWord 64 0x3 = some .final ∧ decodeTableWord 8 0xF8 = some (.wrReserved 0) := by
  decide

theorem witness_EngineTurnCompletesThePendingOperation :
    ((idleWith [.engine]).inputs = [.engine] ∧ (idleWith []).pend = .none) ∧
    (busyInit.inputs = [] ∧ busyInit.rst = false ∧ busyInit.pend = .init) ∧
    busyAbsorb.pend = .absorb ⟨0x3736353433323130, 0x3938, 0, 0⟩ ∧ busyFinal.pend = .final 0 := by
  decide +kernel

theorem witness_PendingOperationCompletes :
    busyAbsorb.rst = false ∧
    (∀ l, Event.rst l ∉ (busyWith [.transaction (.read 0x08), .engine]).inputs) ∧
    busyAbsorb.Inv :=
  ⟨rfl, fun l h => by simp [busyWith] at h, inv_busyAbsorb⟩

theorem witness_RaiseRecordsTheFirstError : State.reset.err = 0#4 ∧ withErr.err ≠ 0#4 := by decide

theorem witness_NopChangesNothing : inTail.busy = false ∧ busyAbsorb.busy = true := by
  decide +kernel

theorem witness_InitAcceptance :
    doneEmpty.busy = false ∧ busyInit.busy = true ∧ opField 0x101 = 1#4 ∧ (0x101 : Word) ≠ 1 := by
  decide +kernel

theorem witness_InitCompletionGivesTheResetState : inTail.busy = false := by decide

theorem witness_AbsorbAcceptance :
    nearFull.busy = false ∧ nearFull.phase = phaseOpen ∧ busyAbsorb.busy = true ∧
    (opField 0x2002 = 2#4 ∧ res1Field 0x2002 ≠ 0) ∧ (opField 0x12 = 2#4 ∧ res0Field 0x12 ≠ 0) ∧
    nearFull.len.toNat + byteCount 30#5 = 2 ^ 61 - 1 ∧
    2 ^ 61 - 1 < nearFull.len.toNat + byteCount 31#5 ∧
    inTail.phase ≠ phaseOpen ∧ doneEmpty.phase ≠ phaseOpen := by decide +kernel

theorem witness_FinalAcceptance :
    busyFinal.busy = true ∧ (opField 0x103 = 3#4 ∧ (0x103 : Word) ≠ 3) ∧
    State.reset.phase ≠ phaseDone ∧ inTail.phase ≠ phaseDone ∧ doneEmpty.phase = phaseDone ∧
    doneEmpty.busy = false := by decide +kernel

theorem witness_DigestRegistersHoldTheDigest :
    doneEmpty.phase = phaseDone ∧ doneEmpty.busy = false := by decide +kernel

theorem witness_BitLengthIsExact : nearFull.Inv := inv_nearFull

theorem witness_CommandWriteChecksInOrder :
    busyAbsorb.busy = true ∧ State.reset.busy = false ∧
    decodeCommand 0x4 = .error .reservedOp ∧ decodeCommand 0x0 = .ok .nop ∧
    decodeCommand 0x1 = .ok .init ∧ decodeCommand 0x1E02 = .ok (.absorb 30#5) ∧
    decodeCommand 0x3 = .ok .final := by decide +kernel

theorem witness_RejectedCommandChangesOnlyErr :
    (exec (.wrCmd 3) busyAbsorb = .next (ran (.wrCmd 3) busyAbsorb) ∧ busyAbsorb.busy = true) ∧
    (exec (.wrCmd 4) State.reset = .next (ran (.wrCmd 4) State.reset) ∧
      (ran (.wrCmd 4) State.reset).busy = false ∧ (4 : Word) ≠ 0) :=
  ⟨⟨rfl, rfl⟩, rfl, by decide +kernel, by decide⟩

theorem witness_StateReads : State.reset.busy = false ∧ busyAbsorb.busy = true := by decide +kernel

theorem witness_DigestReads :
    (doneEmpty.phase = phaseDone ∧ doneEmpty.busy = false) ∧ inTail.phase ≠ phaseDone ∧
    (busyFinal.phase = phaseDone ∧ busyFinal.busy = true) := by decide +kernel

theorem witness_ReadOnlyWritesRaiseBadAccess :
    Instr.wrDigest2 5 ∈ [.wrLen 5, .wrParams 5, .wrState0 5, .wrState1 5, .wrState2 5, .wrState3 5,
      .wrDigest0 5, .wrDigest1 5, .wrDigest2 5] := by decide

theorem witness_MisalignedTransactionRaisesBadAccess :
    ((idleWith [.transaction (.read 0x7F)]).rst = false ∧ (0x7F : Offset) &&& 7 ≠ 0) ∧
    (idleWith [.transaction (.write 0x04 1)]).inputs = [.transaction (.write 0x04 1)] ∧
    Instr.misaligned2 none 0x04 ∈ [.misaligned0 none 0x04, .misaligned1 none 0x04,
      .misaligned2 none 0x04] ∧
    Instr.misaligned0 (some 1) 0x7F ∈ [.misaligned0 (some 1) 0x7F, .misaligned1 (some 1) 0x7F,
      .misaligned2 (some 1) 0x7F] := by decide

theorem witness_BadAccessCausesAreExact :
    (idleWith [.transaction (.write 0x70 1)]).err = 0#4 ∧
    goesOn (idleWith [.transaction (.write 0x70 1)]) = true ∧
    (stepped (idleWith [.transaction (.write 0x70 1)])).err = 1#4 ∧
    goesOn (idleWith [.transaction (.write 0x38 1)]) = true ∧
    (stepped (idleWith [.transaction (.write 0x38 1)])).err = 0#4 ∧
    (stepped (idleWith [.transaction (.write 0x00 4)])).err = 2#4 := by decide +kernel

theorem witness_DecodeOfEncode :
    (Instr.misaligned1 (some 0xFFFFFFFFFFFFFFFF) 0x7E).wf = true ∧ (Instr.absorb 31#5).wf = true := by
  decide

theorem witness_EncodeOfDecode :
    (Encoded.cmd 0x1F02).decode = .ok (.absorb 31#5) ∧
    (Encoded.bus (.read 0x05)).decode = .ok (.misaligned0 none 0x05) := ⟨rfl, rfl⟩

theorem witness_EveryKeyIsReadByItsRow :
    (Transaction.read 0x7F).addr &&& 7 ≠ 0 ∧ (Transaction.write 0x78 1).addr &&& 7 = 0 := by decide

theorem witness_PseudoInstructionsExpand :
    ([] : List Byte).length ≤ 32 ∧ (List.replicate 32 (0xAB : Byte)).length ≤ 32 ∧
    busyAbsorb.rst = false ∧ busyAbsorb.busy = true ∧ busyAbsorb.pend ≠ .none ∧
    below 7 ((Pseudo.poll 7).lines ++ [.rd .len none]) = some (pollPass 7 ++ [.rd .len none]) := by
  decide +kernel

theorem witness_RoundFollowsTheFiveSteps :
    Config.th1.raw.swapSel = .swap01 ∧ cfgB.raw.swapSel = .swap23 := by decide

theorem witness_RotationMovesEveryBit :
    (1 ≤ 1 ∧ 1 ≤ 63 ∧ 0 < 64) ∧ (1 ≤ 63 ∧ 63 ≤ 63 ∧ 63 < 64) := by decide

theorem witness_MixSplitsAtTheTableLength : Config.th1.raw.rot.length ∣ 14 := by decide

theorem witness_BytePackingIsInvertible :
    (List.replicate 8 (0x80 : Byte)).length = 8 ∧ (List.replicate 32 (0x80 : Byte)).length = 32 := by
  decide

theorem witness_LatchedBlockIsTheZeroPaddedBlock :
    (1 ≤ 1 ∧ 32 ≤ 32) ∧ loaded.busy = false ∧ loaded.phase = phaseOpen ∧
    loaded.len.toNat + byteCount 0#5 ≤ 2 ^ 61 - 1 ∧
    nearFull.len.toNat + byteCount 30#5 ≤ 2 ^ 61 - 1 := by decide +kernel

theorem witness_CompletionWritesTheState :
    busyInit.pend = .init ∧ busyAbsorb.pend = .absorb ⟨0x3736353433323130, 0x3938, 0, 0⟩ ∧
    busyFinal.pend = .final 0 := by decide +kernel

theorem witness_DigestHasTwentyBytes : (tentHash Config.th1 []).isSome = true := by decide +kernel

theorem witness_AbsorbingOneMoreBlock :
    (([] : List Byte).length % 32 = 0 ∧ 1 ≤ ([7] : List Byte).length) ∧
    ((List.replicate 32 (1 : Byte)).length % 32 = 0 ∧
      (List.replicate 32 (2 : Byte)).length ≤ 32) := by decide

theorem witness_StepTracksTheMessage :
    Tracks [] { loaded with inputs := [.transaction (.write 0x00 0x902)] } ∧
    step { loaded with inputs := [.transaction (.write 0x00 0x902)] } =
      .next (stepped { loaded with inputs := [.transaction (.write 0x00 0x902)] }) :=
  ⟨tracks_loaded, rfl⟩

theorem witness_TrackedDigestIsTheHash :
    Tracks [] doneEmpty ∧ doneEmpty.phase = phaseDone ∧ doneEmpty.busy = false :=
  ⟨tracks_doneEmpty, by decide +kernel, by decide +kernel⟩

theorem witness_RunWithoutErrorHashesTheHostsMessage :
    (idleWith [.transaction (.write 0x00 3), .engine]).Ready ∧ State.reset.phase = phaseOpen ∧
    State.reset.len = 0#64 ∧ State.reset.S = State.reset.cfg.raw.iv ∧
    (∀ l, Event.rst l ∉ (idleWith [.transaction (.write 0x00 3), .engine]).inputs) ∧
    core.run 2 (idleWith [.transaction (.write 0x00 3), .engine]) = .next doneEmpty ∧
    doneEmpty.inputs = [] ∧ (idleWith [.transaction (.write 0x00 3), .engine]).RaisesNone 2 ∧
    (doneEmpty.err = 0#4 ∧ ∀ v, Event.transaction (.write 0x08 v) ∉
      (idleWith [.transaction (.write 0x00 3), .engine]).inputs) ∧
    doneEmpty.phase = phaseDone ∧ doneEmpty.busy = false :=
  ⟨⟨rfl, rfl, rfl⟩, rfl, rfl, rfl, fun l h => by simp [idleWith] at h, rfl, rfl,
   ⟨doneEmpty, rfl, rfl⟩, ⟨rfl, fun v h => by simp [idleWith] at h⟩, rfl, rfl⟩

theorem witness_SafeSequenceReadsTheHash :
    ({ doneEmpty with inputs := safeSequence true [2, 0, 5] [0x30, 0x31] ++ [] }).Ready ∧
    ([0x30, 0x31] : List Byte).length ≤ 2 ^ 61 - 1 ∧
    (idleWith (safeSequence false [3, 1] [0x30, 0x31] ++ [])).Ready ∧
    State.reset.phase = phaseOpen ∧ State.reset.len = 0#64 ∧
    State.reset.S = State.reset.cfg.raw.iv :=
  ⟨⟨rfl, rfl, rfl⟩, by decide, ⟨rfl, rfl, rfl⟩, rfl, rfl, rfl⟩

/-! ## The host's lines (30_encoding.md R78 to R80) -/

-- One command after the other, each with its own latency: bit 0 is 1 in every pass but the last.
theorem test_poll_counts_differ :
    safeSequence true [1, 0] [] =
      [.transaction (.write 0x08 0), .transaction (.write 0x00 1),
       .transaction (.read 0x08), .engine, .transaction (.read 0x08),
       .transaction (.write 0x00 3), .engine, .transaction (.read 0x08),
       .transaction (.read 0x08), .transaction (.read 0x60), .transaction (.read 0x68),
       .transaction (.read 0x70)] := by decide

/-- A host at the start of POLL with one more line after it. -/
def polling : Driver :=
  { prog := (Pseudo.poll 7).lines ++ [.rd .len none], todo := (Pseudo.poll 7).lines ++ [.rd .len none],
    env := [] }

theorem test_poll_goes_back_while_busy :
    (together [.host, .host, .host] (polling, busyAbsorb)).map (fun x => (x.1.todo, x.1.env)) =
      some (pollPass 7 ++ [.rd .len none], [("t", 0x3)]) := by decide +kernel

theorem test_poll_leaves_when_idle :
    (together [.host, .host, .engine, .host, .host, .host] (polling, busyAbsorb)).map
      (fun x => (x.1.todo, x.1.env, x.2.reads)) =
      some ([.rd .len none], [("t", 0x2), ("t", 0x3)], [0x2, 0x3]) := by decide +kernel

end Sys2Proof.Tests
end

section
/-! SUPPORT. The scope family (00_scope.md): the configuration is never written (R5), bytes pack into
words and words unpack into bytes (R13), and the numbers of the default profile (R6). -/

namespace Sys2Proof.Machine

/-! ## The configuration -/

/-- No transaction's effect writes the configuration. -/
theorem Effect.cfg_eq {s t : State} {i : Instr} (h : Effect s i t) : t.cfg = s.cfg := by
  cases h <;> rfl

theorem exec_cfg {i : Instr} {s t : State} (h : exec i s = .next t) : t.cfg = s.cfg :=
  (exec_effect h).cfg_eq

@[simp] theorem engineStep_cfg (s : State) : (engineStep s).cfg = s.cfg := by
  obtain ⟨-, h⟩ | ⟨q, -, h⟩ := engineStep_cases s
  · rw [h]
  · rw [h, complete_cfg]

@[simp] theorem engineTurn_cfg (s : State) : (engineTurn s).cfg = s.cfg := by
  unfold engineTurn
  split
  · exact coreReset_cfg s
  · exact engineStep_cfg s

@[simp] theorem driveRst_cfg (l : Bool) (s : State) : (driveRst l s).cfg = s.cfg := by
  cases l <;> rfl

theorem step_cfg {s t : State} (h : step s = .next t) : t.cfg = s.cfg := by
  obtain ⟨-, rfl⟩ | ⟨es, -, rfl⟩ | ⟨l, es, -, rfl⟩ | ⟨x, es, -, -, hx⟩ := step_cases h
  · exact engineTurn_cfg s
  · rw [engineTurn_cfg, consume_cfg]
  · rw [driveRst_cfg, consume_cfg]
  · rw [exec_cfg hx, consume_cfg]

/-- Settles O8, event by event: a transaction keeps the configuration by `exec_cfg`, the Engine's
turn and a level of `rst` by their own lemmas. -/
theorem configurationIsNeverWritten : Obligations.ConfigurationIsNeverWritten := by
  unfold Obligations.ConfigurationIsNeverWritten
  intro s t h
  exact step_cfg h

/-! ## Bytes and words -/

/-- Byte `k` of the packed word is byte `k` of the sequence, 0 past its end. -/
theorem byteOf_le64 (b : List Byte) {k : Nat} (hk : k < 8) : byteOf (le64 b) k = b.getD k 0 := by
  apply BitVec.eq_of_getLsbD_eq
  intro i hi
  have hdiv : (8 * k + i) / 8 = k := by omega
  have hmod : (8 * k + i) % 8 = i := by omega
  rw [byteOf_getLsbD, le64_getLsbD b _ (by omega), hdiv, hmod]
  simp [hi]

@[simp] theorem le64_unle64 (w : Word) : le64 (unle64 w) = w := by
  apply BitVec.eq_of_getLsbD_eq
  intro i hi
  have hlen : i / 8 < (unle64 w).length := by rw [length_unle64]; omega
  have hbit : 8 * (i / 8) + i % 8 = i := by omega
  rw [le64_getLsbD _ _ hi, List.getD_eq_getElem _ _ hlen, getElem_unle64, byteOf_getLsbD, hbit]
  simp [Nat.mod_lt]

theorem unle64_le64 {b : List Byte} (hb : b.length = 8) : unle64 (le64 b) = b := by
  apply List.ext_getElem (by rw [length_unle64, hb])
  intro k _ hk
  rw [getElem_unle64, byteOf_le64 b (by omega), List.getD_eq_getElem _ _ hk]

/-! ## Blocks -/

theorem take_unle64 (w : Word) : (unle64 w).take 8 = unle64 w := List.take_of_length_le (by simp)

theorem drop_unle64 (w : Word) {n : Nat} (hn : 8 ≤ n) : (unle64 w).drop n = [] :=
  List.drop_eq_nil_of_le (by simpa using hn)

@[simp] theorem quadOfBytes_quadBytes (q : Quad) : quadOfBytes (quadBytes q) = q := by
  simp [quadOfBytes, quadBytes, List.drop_append, take_unle64, drop_unle64]

/-- A list of 32 bytes is its four pieces of eight. -/
theorem eightByteChunks_append {b : List Byte} (hb : b.length = 32) :
    b.take 8 ++ (b.drop 8).take 8 ++ (b.drop 16).take 8 ++ (b.drop 24).take 8 = b := by
  have hlast : (b.drop 24).take 8 = b.drop 24 := List.take_of_length_le (by simp [hb])
  rw [hlast, ← List.take_add, ← List.take_add, List.take_append_drop]

theorem quadBytes_quadOfBytes {b : List Byte} (hb : b.length = 32) :
    quadBytes (quadOfBytes b) = b := by
  unfold quadBytes quadOfBytes
  rw [unle64_le64 (by simp [hb]), unle64_le64 (by simp [hb]), unle64_le64 (by simp [hb]),
    unle64_le64 (by simp [hb])]
  exact eightByteChunks_append hb

/-- Settles O53: the packing of a word bit by bit (`le64_getLsbD`), and that of a block word by
word. -/
theorem bytePackingIsInvertible : Obligations.BytePackingIsInvertible := by
  refine ⟨fun b hb k hk => ?_, le64_unle64, fun _ => unle64_le64, quadOfBytes_quadBytes,
    fun _ => quadBytes_quadOfBytes⟩
  have hlt : k < b.length := by omega
  calc b[k]? = some (b.getD k 0) := by rw [List.getElem?_eq_getElem hlt, List.getD_eq_getElem _ _ hlt]
    _ = some (byteOf (le64 b) k) := by rw [byteOf_le64 b hk]

/-! ## The default profile -/

theorem exec_rdParams (s : State) : exec .rdParams s = .next (respond (paramsWord s.cfg) s) := rfl

/-- The constant PARAMS under TH1 (10_state.md R27). -/
theorem paramsWord_th1 : paramsWord Config.th1 = 0x0000000107000E07#64 := by decide

/-- Settles O2: the numbers stand in `RawConfig.th1`, and the PARAMS read answers `paramsWord_th1`. -/
theorem resetUsesTheNumbersOfTH1 : Obligations.ResetUsesTheNumbersOfTH1 := by
  refine ⟨rfl, rfl, rfl, rfl, rfl, ?_⟩
  have hparams : paramsWord State.reset.cfg = 0x0000000107000E07#64 := paramsWord_th1
  rw [exec_rdParams, hparams]
  rfl

end Sys2Proof.Machine
end

section
/-! SUPPORT. The state family (10_state.md): the reset values (R36), the six invariants of R37, which
events write S (R21), BLK (R26) and the sequencer (R22, R24), and the fields of PARAMS (R27). -/

namespace Sys2Proof.Machine

/-! ## What a transaction says and what a step does -/

@[simp] theorem transaction_of_data_addr (x : Transaction) : Transaction.of x.data x.addr = x := by
  cases x <;> rfl

/-- A transaction is what its instruction encodes to: no two have one reading (30_encoding.md R76). -/
theorem encode_decode (x : Transaction) : encode (decode x) = .bus x := by
  by_cases aligned : x.addr &&& 7#7 = 0#7
  · have haddr := mem_alignedOffsets aligned
    simp only [alignedOffsets, List.mem_cons, List.not_mem_nil, or_false] at haddr
    cases x <;> rcases haddr with h | h | h | h | h | h | h | h | h | h | h | h | h | h | h | h <;>
      cases h <;> simp [encode]
  · obtain h | h | h := decode_misaligned aligned <;> rw [h] <;> simp [encode]

theorem transaction_encode_decode (x : Transaction) : (encode (decode x)).transaction = x := by
  rw [encode_decode]
  rfl

theorem consume_of_nil {s : State} (h : s.inputs = []) : consume s = s := by
  unfold consume
  rw [h, List.tail_nil, ← h]

/-- With the port in reset the Engine's turn is a reset edge, and otherwise its step. -/
theorem engineTurn_cases (s : State) :
    (s.rst = true ∧ engineTurn s = coreReset s) ∨ (s.rst = false ∧ engineTurn s = engineStep s) := by
  unfold engineTurn
  cases s.rst <;> simp

/-- `step_cases` by what happens to the core: a reset edge, the Engine's turn, the release of reset,
or a transaction. -/
theorem step_kinds {s t : State} (h : step s = .next t) :
    (s.resetEdge = true ∧ ∃ u, t = coreReset u) ∨
    (s.rst = false ∧ (s.inputs = [] ∨ ∃ es, s.inputs = .engine :: es) ∧ t = engineStep (consume s)) ∨
    (∃ es, s.inputs = .rst false :: es ∧ t = { consume s with rst := false }) ∨
    (∃ x es, s.inputs = .transaction x :: es ∧ s.rst = false ∧
      exec (decode x) (consume s) = .next t) := by
  obtain ⟨hin, rfl⟩ | ⟨es, hin, rfl⟩ | ⟨l, es, hin, rfl⟩ | hx := step_cases h
  · obtain ⟨hr, ht⟩ | ⟨hr, ht⟩ := engineTurn_cases s
    · exact .inl ⟨by simpa [State.resetEdge, hin] using hr, s, ht⟩
    · exact .inr (.inl ⟨hr, .inl hin, by rw [ht, consume_of_nil hin]⟩)
  · obtain ⟨hr, ht⟩ | ⟨hr, ht⟩ := engineTurn_cases (consume s)
    · exact .inl ⟨by simpa [State.resetEdge, hin] using hr, consume s, ht⟩
    · exact .inr (.inl ⟨hr, .inr ⟨es, hin⟩, ht⟩)
  · cases l with
    | true => exact .inl ⟨by simp [State.resetEdge, hin], _, rfl⟩
    | false => exact .inr (.inr (.inl ⟨es, hin, rfl⟩))
  · exact .inr (.inr (.inr hx))

/-! ## The six invariants -/

theorem phaseAfterAbsorb_eq_open (n : Nat) : phaseAfterAbsorb n = phaseOpen ↔ n = 32 := by
  unfold phaseAfterAbsorb
  split <;> simp [*, phaseOpen, phaseTail]

theorem phaseAfterAbsorb_eq_tail (n : Nat) : phaseAfterAbsorb n = phaseTail ↔ n ≠ 32 := by
  unfold phaseAfterAbsorb
  split <;> simp [*, phaseOpen, phaseTail]

theorem phaseAfterAbsorb_ne_three (n : Nat) : phaseAfterAbsorb n ≠ 3#2 := by
  unfold phaseAfterAbsorb
  split <;> decide

namespace State.Inv

/-- The reset values of 10_state.md R36 meet the invariants. -/
theorem of_resetValues {t : State} (hbusy : t.busy = false) (hpend : t.pend = .none)
    (hlen : t.len = 0#64) (hphase : t.phase = phaseOpen) (herr : t.err = 0#4) : t.Inv where
  busy_iff := by simp [hbusy, hpend]
  len_le := by simp [hlen]
  open_len := by simp [hlen]
  tail_len := by simp [hphase, phaseOpen, phaseTail]
  phase_ne := by rw [hphase]; decide
  err_le := by simp [herr]

variable {s t : State} (hs : s.Inv)
include hs

/-- The invariants speak of BUSY, PEND, LEN, PHASE and ERR alone. -/
theorem congr (hbusy : t.busy = s.busy) (hpend : t.pend = s.pend) (hlen : t.len = s.len)
    (hphase : t.phase = s.phase) (herr : t.err.toNat ≤ 5) : t.Inv where
  busy_iff := by rw [hbusy, hpend]; exact hs.busy_iff
  len_le := by rw [hlen]; exact hs.len_le
  open_len := by rw [hlen, hphase]; exact hs.open_len
  tail_len := by rw [hlen, hphase]; exact hs.tail_len
  phase_ne := by rw [hphase]; exact hs.phase_ne
  err_le := herr

theorem raise (e : ErrorKind) : (Machine.raise e s).Inv := by
  refine hs.congr rfl rfl rfl rfl ?_
  rw [raise_err]
  split
  · exact code_le_five e
  · exact hs.err_le

theorem complete (q : Quad) : (Machine.complete q s).Inv where
  busy_iff := by simp
  len_le := hs.len_le
  open_len := hs.open_len
  tail_len := hs.tail_len
  phase_ne := hs.phase_ne
  err_le := hs.err_le

theorem initAccept : (Machine.initAccept s).Inv where
  busy_iff := by simp [Machine.initAccept]
  len_le := by simp [Machine.initAccept]
  open_len := by simp [Machine.initAccept]
  tail_len := by simp [Machine.initAccept, phaseOpen, phaseTail]
  phase_ne := by simp [Machine.initAccept, phaseOpen]
  err_le := hs.err_le

/-- An accepted ABSORB adds its `n` bytes to a multiple of 32 within the bound, so its phase, OPEN for
`n = 32` and TAIL below, is again the one LEN asks for. -/
theorem absorbAccept {n : Nat} (hn : 1 ≤ n ∧ n ≤ 32) (isOpen : s.phase = phaseOpen)
    (fits : s.len.toNat + n ≤ lenMax) : (Machine.absorbAccept n s).Inv := by
  have hlen : (Machine.absorbAccept n s).len.toNat = s.len.toNat + n := toNat_len_add fits
  have hphase : (Machine.absorbAccept n s).phase = phaseAfterAbsorb n := rfl
  have hmod : s.len.toNat % 32 = 0 := hs.open_len isOpen
  constructor
  case busy_iff => simp [Machine.absorbAccept]
  case len_le => rw [hlen]; exact fits
  case open_len => rw [hlen, hphase, phaseAfterAbsorb_eq_open]; omega
  case tail_len => rw [hlen, hphase, phaseAfterAbsorb_eq_tail]; omega
  case phase_ne => rw [hphase]; exact phaseAfterAbsorb_ne_three n
  case err_le => exact hs.err_le

theorem finalAccept : (Machine.finalAccept s).Inv where
  busy_iff := by simp [Machine.finalAccept]
  len_le := hs.len_le
  open_len := by simp [Machine.finalAccept, phaseDone, phaseOpen]
  tail_len := by simp [Machine.finalAccept, phaseDone, phaseTail]
  phase_ne := by simp [Machine.finalAccept, phaseDone]
  err_le := hs.err_le

theorem engineStep : (Machine.engineStep s).Inv := by
  obtain ⟨-, h⟩ | ⟨q, -, h⟩ := engineStep_cases s <;> rw [h]
  · exact hs
  · exact hs.complete q

theorem effect {i : Instr} (h : Effect s i t) : t.Inv := by
  cases h with
  | quiet => exact hs
  | rejected _ e => exact hs.raise e
  | rejectedRead => exact (hs.raise .badAccess).congr rfl rfl rfl rfl (hs.raise .badAccess).err_le
  | cleared => exact hs.congr rfl rfl rfl rfl (Nat.zero_le 5)
  | startedInit => exact hs.initAccept
  | startedAbsorb _ nm1 _ _ isOpen fits => exact hs.absorbAccept (byteCount_bounds nm1) isOpen fits
  | startedFinal => exact hs.finalAccept
  | answered | answeredAny | stored0 | stored1 | stored2 | stored3 =>
    exact hs.congr rfl rfl rfl rfl hs.err_le

theorem step (h : Machine.step s = .next t) : t.Inv := by
  have hc : (consume s).Inv := hs.congr rfl rfl rfl rfl hs.err_le
  obtain ⟨-, u, rfl⟩ | ⟨-, -, rfl⟩ | ⟨es, -, rfl⟩ | ⟨x, es, -, -, hx⟩ := step_kinds h
  · exact .of_resetValues rfl rfl rfl rfl rfl
  · exact hc.engineStep
  · exact hs.congr rfl rfl rfl rfl hs.err_le
  · exact hc.effect (exec_effect hx)

end State.Inv

/-- Settles O6: `State.Inv.step`, carried along a run by `run_keeps` from the reset values. -/
theorem stepKeepsTheStateInvariants : Obligations.StepKeepsTheStateInvariants := by
  refine ⟨fun s t hs h => hs.step h, fun c es k t h => ?_⟩
  exact run_keeps State.Inv (fun _ _ hs h => hs.step h) k
    (.of_resetValues rfl rfl rfl rfl rfl) h

/-! ## Who writes S -/

/-- No transaction's effect writes the state words. -/
theorem Effect.S_eq {s t : State} {i : Instr} (h : Effect s i t) : t.S = s.S := by
  cases h <;> rfl

/-- With nothing pending the Engine's step is no step (42_commands.md R141). -/
theorem engineStep_of_idle {s : State} (h : s.pend = .none) : engineStep s = s := by
  unfold engineStep
  rw [h]

/-- Settles O9: the effects of transactions by `Effect.S_eq`, and of the other kinds of step only the
reset edge and the Engine's turn with an operation pending are left. -/
theorem onlyTheEngineAndResetWriteTheState : Obligations.OnlyTheEngineAndResetWriteTheState := by
  refine ⟨fun i s t h => (exec_effect h).S_eq, fun s t h hne => ?_⟩
  obtain ⟨hedge, -⟩ | ⟨hr, hin, rfl⟩ | ⟨es, -, rfl⟩ | ⟨x, es, -, -, hx⟩ := step_kinds h
  · exact .inl hedge
  · refine .inr ⟨hr, fun idle => hne ?_, hin⟩
    have hidle : (consume s).pend = .none := idle
    rw [engineStep_of_idle hidle, consume_S]
  · exact absurd rfl hne
  · exact absurd (exec_effect hx).S_eq hne

/-! ## Who writes BLK -/

/-- An instruction that changes BLK is a write of one of the four block offsets (10_state.md R31). -/
theorem Effect.blk_eq_or {s t : State} {i : Instr} (h : Effect s i t) :
    t.blk = s.blk ∨ ∃ a v, (encode i).transaction = .write a v ∧
      (a = 0x20#7 ∨ a = 0x28#7 ∨ a = 0x30#7 ∨ a = 0x38#7) := by
  cases h with
  | stored0 v => exact .inr ⟨0x20#7, v, rfl, by simp⟩
  | stored1 v => exact .inr ⟨0x28#7, v, rfl, by simp⟩
  | stored2 v => exact .inr ⟨0x30#7, v, rfl, by simp⟩
  | stored3 v => exact .inr ⟨0x38#7, v, rfl, by simp⟩
  | _ => exact .inl rfl

@[simp] theorem engineStep_blk (s : State) : (engineStep s).blk = s.blk := by
  obtain ⟨-, h⟩ | ⟨q, -, h⟩ := engineStep_cases s <;> rw [h]
  exact complete_blk s q

/-- Settles O10: the Engine's turn and the release of reset keep BLK, and a transaction that does not
is one of the four writes by `Effect.blk_eq_or`. -/
theorem onlyTheHostWritesTheBlockRegisters : Obligations.OnlyTheHostWritesTheBlockRegisters := by
  intro s t h hne
  obtain ⟨hedge, -⟩ | ⟨-, -, rfl⟩ | ⟨es, -, rfl⟩ | ⟨x, es, hin, -, hx⟩ := step_kinds h
  · exact .inl hedge
  · exact absurd (by simp) hne
  · exact absurd rfl hne
  · obtain hblk | ⟨a, v, hax, ha⟩ := (exec_effect hx).blk_eq_or
    · exact absurd hblk hne
    · rw [transaction_encode_decode] at hax
      exact .inr ⟨a, v, es, by rw [hin, hax], ha⟩

/-! ## Who moves the sequencer -/

/-- Only an instruction carried by a write of CMD can change more than ERR, the fault mark, BLK, the
values read and the count of draws. -/
theorem Effect.frame {s t : State} {i : Instr} (h : Effect s i t)
    (hcmd : ∀ v, (encode i).transaction ≠ .write 0x00#7 v) :
    t = { s with err := t.err, faulted := t.faulted, blk := t.blk, reads := t.reads,
                 draws := t.draws } := by
  cases h with
  | startedInit _ hi | startedAbsorb _ _ hi | startedFinal _ hi =>
    obtain rfl | ⟨v, rfl⟩ := hi <;> exact absurd rfl (hcmd _)
  | _ => rfl

/-- Settles O11: the step runs the transaction, and `Effect.frame` leaves the named fields. -/
theorem onlyCommandWritesMoveTheSequencer : Obligations.OnlyCommandWritesMoveTheSequencer := by
  intro s t x es hin hcmd h
  obtain ⟨hin', -⟩ | ⟨_, hin', -⟩ | ⟨_, _, hin', -⟩ | ⟨y, es', hin', -, hy⟩ := step_cases h <;>
    rw [hin] at hin' <;> cases hin'
  have htail : s.inputs.tail = es := by rw [hin, List.tail_cons]
  rw [(exec_effect hy).frame (by rwa [transaction_encode_decode]), ← htail]
  exact ⟨rfl, rfl, rfl, rfl, rfl, rfl, rfl, rfl⟩

/-! ## The fields of PARAMS -/

section Params
variable (c : Config)

theorem paramsWord_roundsBlock :
    (paramsWord c).extractLsb' 0 8 = BitVec.ofNat 8 c.raw.roundsBlock :=
  BitVec.extractLsb'_append_eq_right

theorem paramsWord_roundsFinal :
    (paramsWord c).extractLsb' 8 8 = BitVec.ofNat 8 c.raw.roundsFinal := by
  unfold paramsWord
  rw [BitVec.extractLsb'_append_eq_of_le (by decide)]
  exact BitVec.extractLsb'_append_eq_right

theorem paramsWord_swapSel : (paramsWord c).extractLsb' 16 1 = swapCode c.raw.swapSel := by
  unfold paramsWord
  iterate 2 rw [BitVec.extractLsb'_append_eq_of_le (by decide)]
  exact BitVec.extractLsb'_append_eq_right

theorem paramsWord_zeros : (paramsWord c).extractLsb' 17 7 = 0#7 := by
  unfold paramsWord
  iterate 3 rw [BitVec.extractLsb'_append_eq_of_le (by decide)]
  exact BitVec.extractLsb'_append_eq_right

theorem paramsWord_rotLen :
    (paramsWord c).extractLsb' 24 8 = BitVec.ofNat 8 c.raw.rot.length := by
  unfold paramsWord
  iterate 4 rw [BitVec.extractLsb'_append_eq_of_le (by decide)]
  exact BitVec.extractLsb'_append_eq_right

theorem paramsWord_paramId : (paramsWord c).extractLsb' 32 32 = c.raw.paramId := by
  unfold paramsWord
  iterate 5 rw [BitVec.extractLsb'_append_eq_of_le (by decide)]
  exact BitVec.extractLsb'_eq_self

/-- Bit 16 of PARAMS is SWAP_SEL. -/
theorem paramsWord_bit_16 : (paramsWord c).getLsbD 16 = true ↔ c.raw.swapSel = .swap23 := by
  have hbit : (paramsWord c).getLsbD 16 = (swapCode c.raw.swapSel).getLsbD 0 := by
    rw [← paramsWord_swapSel, BitVec.getLsbD_extractLsb']
    simp
  rw [hbit]
  cases c.raw.swapSel <;> decide

/-- The legal values of 00_scope.md R5 fit the eight bits PARAMS gives each of them. -/
theorem paramsCounts_lt_256 :
    c.raw.roundsBlock < 256 ∧ c.raw.roundsFinal < 256 ∧ c.raw.rot.length < 256 := by
  have h := c.legal
  simp only [RawConfig.legal, Bool.and_eq_true, decide_eq_true_eq] at h
  omega

end Params

/-- Settles O31: each field by its own lemma, the counts exact by `paramsCounts_lt_256`. -/
theorem paramsReadReturnsItsFields : Obligations.ParamsReadReturnsItsFields := by
  intro s
  obtain ⟨hblock, hfinal, hrot⟩ := paramsCounts_lt_256 s.cfg
  refine ⟨paramsWord s.cfg, exec_rdParams s, ?_, ?_, paramsWord_bit_16 _, paramsWord_zeros _, ?_,
    paramsWord_paramId _⟩
  · rw [paramsWord_roundsBlock, BitVec.toNat_ofNat, Nat.mod_eq_of_lt hblock]
  · rw [paramsWord_roundsFinal, BitVec.toNat_ofNat, Nat.mod_eq_of_lt hfinal]
  · rw [paramsWord_rotLen, BitVec.toNat_ofNat, Nat.mod_eq_of_lt hrot]

/-! ## Reset -/

/-- Settles O1: `coreReset` and `State.resetOf` both write the table of 10_state.md R36. -/
theorem resetHoldsTheSpecValues : Obligations.ResetHoldsTheSpecValues := by
  refine ⟨fun _ => rfl, fun s r hr => ?_⟩
  obtain rfl | rfl := hr <;> exact ⟨rfl, rfl, rfl, rfl, rfl, rfl, rfl, rfl⟩

@[simp] theorem absorbMessage_nil (c : Config) : absorbMessage c [] = c.raw.iv := rfl

/-- A core fresh from reset has absorbed the empty message. -/
theorem tracks_resetOf (c : Config) : Tracks [] (State.resetOf c) where
  busy_iff := by simp [State.resetOf]
  len_eq := rfl
  bound := Nat.zero_le _
  phase_ne := by simp [State.resetOf]
  open_len := fun _ => rfl
  absorbed := fun _ => by
    rw [settled_of_idle (rfl : (State.resetOf c).pend = .none), absorbMessage_nil]
    rfl
  finalized := fun h => absurd h (by simp [State.resetOf, phaseDone])

/-- Settles O5: the invariants by the reset values, the mark because ERR is 0. -/
theorem resetMeetsTheInvariants : Obligations.ResetMeetsTheInvariants := by
  intro c
  exact ⟨.of_resetValues rfl rfl rfl rfl rfl, fun herr => absurd rfl herr, tracks_resetOf c⟩

end Sys2Proof.Machine
end

section
/-! SUPPORT. The encoding family (30_encoding.md): command words and commands stand for each other
(R70 to R75), transactions and their instructions do too (R76), the next step runs a placed row of the
opcode table, and the host's pseudo-instructions expand to their lines, POLL as a loop (R78 to R80). -/

namespace Sys2Proof

/-! ## Command words -/

section CommandWord
variable (op : BitVec 4) (nm1 : BitVec 5)

@[simp] theorem opField_commandWord : opField (commandWord op nm1) = op :=
  BitVec.extractLsb'_append_eq_right

@[simp] theorem res0Field_commandWord : res0Field (commandWord op nm1) = 0#4 := by
  unfold res0Field commandWord
  rw [BitVec.extractLsb'_append_eq_of_le (by decide)]
  exact BitVec.extractLsb'_append_eq_right

@[simp] theorem nm1Field_commandWord : nm1Field (commandWord op nm1) = nm1 := by
  unfold nm1Field commandWord
  iterate 2 rw [BitVec.extractLsb'_append_eq_of_le (by decide)]
  exact BitVec.extractLsb'_append_eq_right

@[simp] theorem res1Field_commandWord : res1Field (commandWord op nm1) = 0#51 := by
  unfold res1Field commandWord
  iterate 3 rw [BitVec.extractLsb'_append_eq_of_le (by decide)]
  exact BitVec.extractLsb'_eq_self

/-- A word with no reserved bit set is the word of its OP and NM1 (30_encoding.md R70). -/
theorem commandWord_fields {v : Word} (hres1 : res1Field v = 0#51) (hres0 : res0Field v = 0#4) :
    commandWord (opField v) (nm1Field v) = v := by
  conv_rhs => rw [word_eq_fields v, hres1, hres0]
  rfl

end CommandWord

theorem plainCommand_eq_ok {nm1 : BitVec 5} {b c : Command} :
    plainCommand nm1 b = .ok c ↔ nm1 = 0#5 ∧ b = c := by
  unfold plainCommand
  split <;> simp [*]

theorem decodeCommand_encodeCommand (c : Command) : decodeCommand (encodeCommand c) = .ok c := by
  cases c <;> simp [decodeCommand, encodeCommand, plainCommand]

theorem encodeCommand_of_plainCommand {v : Word} {b c : Command}
    (hv : commandWord (opField v) (nm1Field v) = v) (hb : encodeCommand b = commandWord (opField v) 0#5)
    (h : plainCommand (nm1Field v) b = .ok c) : encodeCommand c = v := by
  obtain ⟨hnm1, rfl⟩ := plainCommand_eq_ok.mp h
  rw [hb, ← hnm1, hv]

/-- The decoder reads a command from no word but its own (30_encoding.md R75). -/
theorem encodeCommand_of_decodeCommand {v : Word} {c : Command} (h : decodeCommand v = .ok c) :
    encodeCommand c = v := by
  unfold decodeCommand at h
  split_ifs at h with hres hnop hinit habsorb hfinal
  all_goals
    obtain ⟨hres1, hres0⟩ := not_or.mp hres
    have hv := commandWord_fields (not_not.mp hres1) (not_not.mp hres0)
  · exact encodeCommand_of_plainCommand hv (by rw [hnop]; rfl) h
  · exact encodeCommand_of_plainCommand hv (by rw [hinit]; rfl) h
  · cases h
    rw [encodeCommand, ← habsorb, hv]
  · exact encodeCommand_of_plainCommand hv (by rw [hfinal]; rfl) h

theorem decodeCommand_eq_ok {v : Word} {c : Command} :
    decodeCommand v = .ok c ↔ encodeCommand c = v := by
  refine ⟨encodeCommand_of_decodeCommand, ?_⟩
  rintro rfl
  exact decodeCommand_encodeCommand c

/-! ## Transactions -/

@[simp] theorem addr_of (d : Option Word) (a : Offset) : (Transaction.of d a).addr = a := by
  cases d <;> rfl

@[simp] theorem data_of (d : Option Word) (a : Offset) : (Transaction.of d a).data = d := by
  cases d <;> rfl

theorem misalignedBit_cases (a : Offset) :
    misalignedBit a = none ∨ misalignedBit a = some 0 ∨ misalignedBit a = some 1 ∨
      misalignedBit a = some 2 := by
  unfold misalignedBit
  split_ifs <;> simp

section Bits
variable {x : Transaction}

theorem decode_of_bit_zero (h : misalignedBit x.addr = some 0) :
    decode x = .misaligned0 x.data x.addr := by
  simp [decode, h]

theorem decode_of_bit_one (h : misalignedBit x.addr = some 1) :
    decode x = .misaligned1 x.data x.addr := by
  simp [decode, h]

theorem decode_of_bit_two (h : misalignedBit x.addr = some 2) :
    decode x = .misaligned2 x.data x.addr := by
  simp [decode, h]

end Bits

theorem decodeRead_wf (a : Offset) : (decodeRead a).wf = true := by
  unfold decodeRead
  split <;> rfl

theorem decodeWrite_wf (a : Offset) (v : Word) : (decodeWrite a v).wf = true := by
  unfold decodeWrite
  split <;> rfl

/-- The decoder answers well-formed instructions only (30_encoding.md R76). -/
theorem decode_wf (x : Transaction) : (decode x).wf = true := by
  obtain h | h | h | h := misalignedBit_cases x.addr
  · cases x with
    | read a => simpa [decode, h] using decodeRead_wf a
    | write a v => simpa [decode, h] using decodeWrite_wf a v
  · simp [decode_of_bit_zero h, Instr.wf, h]
  · simp [decode_of_bit_one h, Instr.wf, h]
  · simp [decode_of_bit_two h, Instr.wf, h]

/-! ## The two formats together -/

@[simp] theorem encode_toInstr (c : Command) : encode c.toInstr = .cmd (encodeCommand c) := by
  cases c <;> rfl

@[simp] theorem toInstr_wf (c : Command) : c.toInstr.wf = true := by cases c <;> rfl

@[simp] theorem Encoded.decode_bus (x : Transaction) :
    (Encoded.bus x).decode = .ok (Sys2Proof.decode x) := rfl

theorem Encoded.decode_cmd_eq_ok {w : Word} {i : Instr} :
    (Encoded.cmd w).decode = .ok i ↔ ∃ c, decodeCommand w = .ok c ∧ c.toInstr = i := by
  simp only [Encoded.decode]
  cases decodeCommand w <;> simp [Except.map]

theorem decode_encode_toInstr (c : Command) : (encode c.toInstr).decode = .ok c.toInstr := by
  rw [encode_toInstr, Encoded.decode_cmd_eq_ok]
  exact ⟨c, decodeCommand_encodeCommand c, rfl⟩

/-- Settles O42, by the formats: a command by `decodeCommand_encodeCommand`, a misaligned transaction
by the lowest bit its row is well-formed for, and a register's by the decoder's value at its offset. -/
theorem decodeOfEncode : Obligations.DecodeOfEncode := by
  intro i hwf
  cases i
  case nop => exact decode_encode_toInstr .nop
  case init => exact decode_encode_toInstr .init
  case absorb nm1 => exact decode_encode_toInstr (.absorb nm1)
  case final => exact decode_encode_toInstr .final
  case misaligned0 d a =>
    have hbit : misalignedBit a = some 0 := by simpa [Instr.wf] using hwf
    simp [encode, decode_of_bit_zero (x := .of d a), hbit]
  case misaligned1 d a =>
    have hbit : misalignedBit a = some 1 := by simpa [Instr.wf] using hwf
    simp [encode, decode_of_bit_one (x := .of d a), hbit]
  case misaligned2 d a =>
    have hbit : misalignedBit a = some 2 := by simpa [Instr.wf] using hwf
    simp [encode, decode_of_bit_two (x := .of d a), hbit]
  all_goals simp [encode]

/-- Settles O43: a command word by `encodeCommand_of_decodeCommand`, a transaction by `encode_decode`. -/
theorem encodeOfDecode : Obligations.EncodeOfDecode := by
  intro e i h
  cases e with
  | cmd w =>
    obtain ⟨c, hc, rfl⟩ := Encoded.decode_cmd_eq_ok.mp h
    exact ⟨toInstr_wf c, by rw [encode_toInstr, encodeCommand_of_decodeCommand hc]⟩
  | bus x =>
    cases h
    exact ⟨decode_wf x, Machine.encode_decode x⟩

/-! ## The legal words -/

/-- The word of ABSORB, `2 | (NM1 << 8)` (30_encoding.md R72). -/
theorem encodeCommand_absorb (nm1 : BitVec 5) :
    encodeCommand (.absorb nm1) = 0x2#64 ||| (nm1.setWidth 64 <<< 8) := by
  revert nm1
  decide

/-- The count field, 5 bits wide, holds every `k` below 32. -/
theorem setWidth_countField {k : Nat} (hk : k < 32) :
    (BitVec.ofNat 5 k).setWidth 64 = BitVec.ofNat 64 k :=
  BitVec.setWidth_ofNat_of_le_of_lt (by decide) hk

theorem exists_absorbWord_iff (v : Word) :
    (∃ k < 32, 0x2#64 ||| (BitVec.ofNat 64 k <<< 8) = v) ↔
      ∃ nm1, encodeCommand (.absorb nm1) = v := by
  constructor
  · rintro ⟨k, hk, rfl⟩
    exact ⟨BitVec.ofNat 5 k, by rw [encodeCommand_absorb, setWidth_countField hk]⟩
  · rintro ⟨nm1, rfl⟩
    refine ⟨nm1.toNat, nm1.isLt, ?_⟩
    rw [encodeCommand_absorb, ← setWidth_countField nm1.isLt, BitVec.ofNat_toNat, BitVec.setWidth_eq]

theorem exists_command {p : Command → Prop} :
    (∃ c, p c) ↔ p .nop ∨ p .init ∨ p .final ∨ ∃ nm1, p (.absorb nm1) := by
  constructor
  · rintro ⟨_ | _ | nm1 | _, hc⟩
    · exact .inl hc
    · exact .inr (.inl hc)
    · exact .inr (.inr (.inr ⟨nm1, hc⟩))
    · exact .inr (.inr (.inl hc))
  · rintro (hc | hc | hc | ⟨_, hc⟩) <;> exact ⟨_, hc⟩

/-- Settles O44: the words listed are the encodings of the commands, by the shape of `Command`. -/
theorem exactlyThirtyFiveLegalWords : Obligations.ExactlyThirtyFiveLegalWords := by
  refine ⟨_, rfl, by simp, by decide, fun v => ?_⟩
  simp only [decodeCommand_eq_ok, exists_command, ← exists_absorbWord_iff, List.mem_cons,
    List.mem_map, List.mem_range]
  have hnop : encodeCommand .nop = 0x0#64 := by decide
  have hinit : encodeCommand .init = 0x1#64 := by decide
  have hfinal : encodeCommand .final = 0x3#64 := by decide
  rw [hnop, hinit, hfinal, eq_comm (a := v), eq_comm (a := v), eq_comm (a := v)]

/-- Settles O41: each word and key is closed, and the decoder evaluates on it. -/
theorem specWordsDecode : Obligations.SpecWordsDecode := by
  unfold Obligations.SpecWordsDecode
  decide

/-! ## The rows of the opcode table -/

theorem encode_fitsRow (i : Instr) : Laws.EncodesItsRow.Statement i := by
  open Laws.EncodesItsRow in
  cases i
  exacts [nop, init, absorb _, final, wrCmd _, rdCmd, rdStatus, wrStatus _, rdLen, rdParams,
    rdBlk0, rdBlk1, rdBlk2, rdBlk3, wrBlk0 _, wrBlk1 _, wrBlk2 _, wrBlk3 _,
    rdState0, rdState1, rdState2, rdState3, rdDigest0, rdDigest1, rdDigest2,
    wrLen _, wrParams _, wrState0 _, wrState1 _, wrState2 _, wrState3 _,
    wrDigest0 _, wrDigest1 _, wrDigest2 _, rdReserved, wrReserved _,
    misaligned0 _ _, misaligned1 _ _, misaligned2 _ _]

/-- The key of a transaction fits the row its instruction is named after. -/
theorem decode_fitsRow (x : Transaction) :
    ∃ r ∈ keyRows, r.mnemonic = (decode x).mnemonic ∧ r.fits x.key = true := by
  have h := encode_fitsRow (decode x) (decode_wf x)
  rwa [Machine.encode_decode] at h

/-- The rows with a key of their own. -/
def alignedRows : List KeyRow := registerRows ++ badAccessRows

theorem mem_keyRows {r : KeyRow} : r ∈ keyRows ↔ r ∈ misalignedRows ∨ r ∈ alignedRows := by
  simp [keyRows, alignedRows]

theorem mem_misalignedRows_of_mnemonic {r : KeyRow} (hr : r ∈ keyRows) {d : Option Word} {a : Offset}
    (hm : r.mnemonic = (Instr.misaligned0 d a).mnemonic ∨
      r.mnemonic = (Instr.misaligned1 d a).mnemonic ∨
      r.mnemonic = (Instr.misaligned2 d a).mnemonic) : r ∈ misalignedRows := by
  simp only [Instr.mnemonic] at hm
  revert r
  decide

theorem key_low_bits {x : Transaction} (aligned : x.addr &&& 7#7 = 0#7) : x.key &&& 7#8 = 0#8 := by
  unfold Transaction.key
  generalize x.we = w
  generalize x.addr = a at *
  revert w a
  decide

/-- A misaligned row asks for one of the three low bits, which an aligned key does not have. -/
theorem misalignedRow_not_fits {r : KeyRow} (hr : r ∈ misalignedRows) {k : BitVec 8}
    (aligned : k &&& 7#8 = 0#8) : r.fits k = false := by
  have hrow : r.mask = 7#8 &&& r.mask ∧ r.pattern ≠ 0#8 := by
    revert r
    decide
  obtain ⟨hmask, hpattern⟩ := hrow
  rw [KeyRow.fits, hmask, ← BitVec.and_assoc, aligned, BitVec.zero_and]
  simpa using hpattern.symm

theorem alignedRow_fits_iff {r : KeyRow} (hr : r ∈ alignedRows) (k : BitVec 8) :
    r.fits k = true ↔ k = r.pattern := by
  have hmask : r.mask = 0xFF#8 := by
    revert r
    decide
  have hones : k &&& 0xFF#8 = k := BitVec.and_allOnes
  rw [KeyRow.fits, hmask, hones, beq_iff_eq]

theorem alignedRows_patterns_nodup : (alignedRows.map KeyRow.pattern).Nodup := by decide

/-- An aligned key fits one row and no other (30_encoding.md R76). -/
theorem row_unique_of_aligned {x : Transaction} (aligned : x.addr &&& 7#7 = 0#7) {r r' : KeyRow}
    (hr : r ∈ keyRows) (hr' : r' ∈ keyRows) (hf : r.fits x.key = true) (hf' : r'.fits x.key = true) :
    r' = r := by
  have mem_aligned {q : KeyRow} (hq : q ∈ keyRows) (hfq : q.fits x.key = true) : q ∈ alignedRows := by
    refine (mem_keyRows.mp hq).resolve_left fun hmis => ?_
    simp [misalignedRow_not_fits hmis (key_low_bits aligned)] at hfq
  have hmem := mem_aligned hr hf
  have hmem' := mem_aligned hr' hf'
  refine List.inj_on_of_nodup_map alignedRows_patterns_nodup hmem' hmem ?_
  rw [← (alignedRow_fits_iff hmem' _).mp hf', (alignedRow_fits_iff hmem _).mp hf]

/-- Settles O45: the row is the one `decode_fitsRow` gives; for a misaligned offset its mnemonic is one
of the three misaligned rows', and for an aligned one no other row fits. -/
theorem everyKeyIsReadByItsRow : Obligations.EveryKeyIsReadByItsRow := by
  intro x
  obtain ⟨r, hr, hm, hf⟩ := decode_fitsRow x
  refine ⟨r, hr, hm, hf, fun misaligned => ?_, fun aligned r' hr' hf' =>
    row_unique_of_aligned aligned hr hr' hf hf'⟩
  refine mem_misalignedRows_of_mnemonic hr (d := x.data) (a := x.addr) ?_
  rw [hm]
  obtain h | h | h := decode_misaligned misaligned <;> simp [h]

end Sys2Proof

namespace Sys2Proof.Machine

/-! ## The placed row -/

theorem step_presented (x : Transaction) (s : State) :
    step (presented x s) = exec (decode x) { s with rst := false } := rfl

/-- A legal word written to CMD runs its command (43_register_access.md R151). -/
theorem exec_wrCmd {v : Word} {c : Command} (h : decodeCommand v = .ok c) (s : State) :
    exec (.wrCmd v) s = exec c.toInstr s := by
  have hv : exec (.wrCmd v) s = .next (unlessBusy (runCommand c) s) := by
    simp only [exec, execWrCmd, cmdWrite, h]
  rw [hv]
  cases c <;> rfl

/-- An encoded instruction carried over the port has the effect of the instruction. -/
theorem exec_decode_transaction {e : Encoded} {i : Instr} (h : e.decode = .ok i) (s : State) :
    exec (decode e.transaction) s = exec i s := by
  cases e with
  | cmd w =>
    obtain ⟨c, hc, rfl⟩ := Encoded.decode_cmd_eq_ok.mp h
    rw [Encoded.transaction, decode_write_00, exec_wrCmd hc]
  | bus x =>
    cases h
    rfl

theorem decode_ofTable {nbits w : Nat} {i : Instr} (h : decodeTableWord nbits w = some i) :
    (Encoded.ofTable nbits w).decode = .ok i := by
  unfold decodeTableWord at h
  split at h
  · cases h
    assumption
  · cases h

/-- Settles O16: the step takes the row's transaction, which runs as the instruction read. -/
theorem placedRowIsRunNext : Obligations.PlacedRowIsRunNext := by
  intro s nbits w i h
  rw [State.withFetchWord, step_presented, exec_decode_transaction (decode_ofTable h)]

/-! ## The expansions -/

/-- The word ABSORB's expansion writes is the encoder's: OP and NM1 do not overlap. -/
theorem absorb_line_word (nm1 : BitVec 5) :
    0x2#64 + (nm1.setWidth 64 <<< 8) = encodeCommand (.absorb nm1) := by
  revert nm1
  decide

theorem absorb_events (nm1 : BitVec 5) :
    (Pseudo.absorb nm1).events = [.transaction (.write 0x00#7 (encodeCommand (.absorb nm1)))] := by
  rw [← absorb_line_word]
  rfl

theorem absorb_lines {n : Nat} (h1 : 1 ≤ n) (h2 : n ≤ 32) :
    (Pseudo.absorb (BitVec.ofNat 5 (n - 1))).lines =
      [.wr .cmd (0x2#64 + (BitVec.ofNat 64 (n - 1) <<< 8))] := by
  rw [← setWidth_countField (show n - 1 < 32 by omega)]
  rfl

/-- Bits 11 to 8 of STATUS are ERR (10_state.md R28). -/
@[simp] theorem statusWord_err (s : State) : (statusWord s).extractLsb' 8 4 = s.err := by
  unfold statusWord
  rw [BitVec.extractLsb'_setWidth_of_le (by decide)]
  iterate 3 rw [BitVec.extractLsb'_append_eq_of_le (by decide)]
  exact BitVec.extractLsb'_eq_self

theorem errIsZero_statusWord (s : State) : errIsZero (statusWord s) = true ↔ s.err = 0#4 := by
  rw [errIsZero, statusWord_err, beq_iff_eq]

/-! ## The core under POLL -/

/-- The state after `k` reads of STATUS. -/
def statusReads : Nat → State → State
  | 0, s => s
  | k + 1, s => statusReads k (respond (statusWord s) s)

@[simp] theorem statusWord_respond (v : Word) (s : State) :
    statusWord (respond v s) = statusWord s := rfl

/-- A STATUS read changes nothing a STATUS read returns, so all `k` return one word. -/
theorem statusReads_eq (k : Nat) (s : State) :
    statusReads k s = { s with reads := List.replicate k (statusWord s) ++ s.reads } := by
  induction k generalizing s with
  | zero => rfl
  | succ k ih =>
    rw [statusReads, ih, statusWord_respond, respond_reads, List.replicate_succ', List.append_assoc]
    rfl

/-- The state after a POLL that finds BUSY = 1 in `k` passes: the Engine completes after them, and one
more STATUS read ends the loop (70_reset_and_hazards.md R235). -/
def afterPoll (k : Nat) (s : State) : State :=
  let u := engineStep (statusReads k s)
  respond (statusWord u) u

@[simp] theorem engineStep_reads (s : State) : (engineStep s).reads = s.reads := by
  obtain ⟨-, h⟩ | ⟨q, -, h⟩ := engineStep_cases s <;> rw [h]
  exact complete_reads s q

@[simp] theorem engineStep_inputs (s : State) : (engineStep s).inputs = s.inputs := by
  obtain ⟨-, h⟩ | ⟨q, -, h⟩ := engineStep_cases s <;> rw [h]
  exact complete_inputs s q

@[simp] theorem engineStep_rst (s : State) : (engineStep s).rst = s.rst := by
  obtain ⟨-, h⟩ | ⟨q, -, h⟩ := engineStep_cases s <;> rw [h]
  exact complete_rst s q

theorem engineStep_busy {s : State} (pending : s.pend ≠ .none) : (engineStep s).busy = false := by
  obtain ⟨idle, -⟩ | ⟨q, -, h⟩ := engineStep_cases s
  · exact absurd idle pending
  · rw [h, complete_busy]

/-- The Engine does not look at the events to come. -/
theorem engineStep_withInputs (s : State) (es : List Event) :
    engineStep { s with inputs := es } = { engineStep s with inputs := es } := by
  obtain ⟨_, _, _, _, _, _, _, pend, _, _, _, _, _⟩ := s
  cases pend <;> rfl

theorem afterPoll_busy (k : Nat) {s : State} (pending : s.pend ≠ .none) :
    (afterPoll k s).busy = false :=
  engineStep_busy (by simpa [statusReads_eq] using pending)

theorem afterPoll_inputs (k : Nat) (s : State) : (afterPoll k s).inputs = s.inputs := by
  simp [afterPoll, statusReads_eq]

theorem afterPoll_reads (k : Nat) (s : State) :
    (afterPoll k s).reads =
      statusWord (afterPoll k s) :: List.replicate k (statusWord s) ++ s.reads := by
  simp [afterPoll, statusReads_eq]

theorem pollEvents_eq (l k : Nat) :
    pollEvents l k = List.replicate k (.transaction (.read 0x08#7)) ++
      [.engine, .transaction (.read 0x08#7)] := by
  have hpass : (Pseudo.poll l).events = [.transaction (.read 0x08#7)] := rfl
  simp [pollEvents, hpass]

section Open
variable {s : State} (open_ : s.rst = false)
include open_

theorem step_status_read (es : List Event) :
    step { s with inputs := .transaction (.read 0x08#7) :: es } =
      .next { respond (statusWord s) s with inputs := es } := by
  unfold step
  exact if_neg (by simp [open_])

theorem step_engine (es : List Event) :
    step { s with inputs := .engine :: es } = .next { engineStep s with inputs := es } := by
  rw [← engineStep_withInputs]
  unfold step engineTurn
  exact congrArg Host.Outcome.next (if_neg (by simp [open_]))

theorem run_status_reads (k : Nat) (es : List Event) :
    core.run k { s with inputs := List.replicate k (.transaction (.read 0x08#7)) ++ es } =
      .next { statusReads k s with inputs := es } := by
  induction k generalizing s with
  | zero => rfl
  | succ k ih =>
    rw [List.replicate_succ, List.cons_append, run_succ_of_next k (step_status_read open_ _)]
    exact ih open_

theorem run_pollEvents (l k : Nat) (es : List Event) :
    core.run (k + 2) { s with inputs := pollEvents l k ++ es } =
      .next { afterPoll k s with inputs := es } := by
  have hopen : (statusReads k s).rst = false := by simpa [statusReads_eq] using open_
  have hopen' : (engineStep (statusReads k s)).rst = false := by rw [engineStep_rst, hopen]
  rw [pollEvents_eq, List.append_assoc, run_add k 2 (run_status_reads open_ k _)]
  exact (run_succ_of_next 1 (step_engine hopen _)).trans
    (run_succ_of_next 0 (step_status_read hopen' es))

theorem offer_status_read : offer (.transaction (.read 0x08#7)) s = some (respond (statusWord s) s) :=
  offer_transaction open_ rfl

end Open

/-! ## The host in POLL -/

theorem together_host {ts : List Turn} {x y : Driver × State} (h : x.1.turn x.2 = some y) :
    together (.host :: ts) x = together ts y := by
  simp [together, h]

theorem together_engine {ts : List Turn} {d : Driver} {s : State} (open_ : s.rst = false) :
    together (.engine :: ts) (d, s) = together ts (d, engineStep s) := by
  simp [together, offer_engine open_]

theorem together_append (ts us : List Turn) (x : Driver × State) :
    together (ts ++ us) x = (together ts x).bind (together us) := by
  induction ts generalizing x with
  | nil => rfl
  | cons t ts ih => cases t <;> simp [together, ih, Option.bind_assoc]

section Poll
variable {d : Driver} {s : State} {l : Nat} {rest : List Line}

theorem turn_poll_label (htodo : d.todo = (Pseudo.poll l).lines ++ rest) :
    d.turn s = some ({ d with todo := pollPass l ++ rest }, s) := by
  obtain ⟨prog, todo, env⟩ := d
  cases htodo
  exact turn_label

variable (open_ : s.rst = false) (hbelow : below l d.prog = some (pollPass l ++ rest))
include open_ hbelow

/-- One pass of POLL: the read puts STATUS under `t`, and the BNZ goes by its bit 0, which is BUSY. -/
theorem together_poll_pass (htodo : d.todo = pollPass l ++ rest) :
    together [.host, .host] (d, s) =
      some ({ d with todo := if s.busy then pollPass l ++ rest else rest,
                     env := ("t", statusWord s) :: d.env }, respond (statusWord s) s) := by
  obtain ⟨prog, todo, env⟩ := d
  obtain rfl : todo = pollPass l ++ rest := htodo
  have hread : Driver.turn ⟨prog, pollPass l ++ rest, env⟩ s =
      some (⟨prog, .bnz "t" 0 l :: rest, ("t", statusWord s) :: env⟩, respond (statusWord s) s) :=
    turn_rd (r := .status) (offer_status_read open_)
  have hbnz := turn_bnz (ls := rest) (env := ("t", statusWord s) :: env) (bit := 0)
    (s := respond (statusWord s) s) List.lookup_cons_self hbelow
  rw [statusWord_bit_zero] at hbnz
  exact (together_host hread).trans (together_host hbnz)

/-- While BUSY = 1 every pass ends where it began. -/
theorem together_poll_passes (k : Nat) (busy : s.busy = true) (htodo : d.todo = pollPass l ++ rest) :
    ∃ env, together (List.replicate (2 * k) .host) (d, s) =
      some ({ d with todo := pollPass l ++ rest, env := env }, statusReads k s) := by
  induction k generalizing d s with
  | zero => exact ⟨d.env, by rw [← htodo]; rfl⟩
  | succ k ih =>
    have hpass := together_poll_pass open_ hbelow htodo
    rw [if_pos busy] at hpass
    obtain ⟨env, hrest⟩ := ih (d := ⟨d.prog, pollPass l ++ rest, ("t", statusWord s) :: d.env⟩)
      (s := respond (statusWord s) s) open_ hbelow busy rfl
    refine ⟨env, ?_⟩
    rw [Nat.mul_succ, Nat.add_comm, ← List.replicate_append_replicate, together_append]
    exact (congrArg (Option.bind · _) hpass).trans hrest

/-- POLL from its label: `k` passes with BUSY = 1, the Engine's completion, and the pass that leaves. -/
theorem together_poll (k : Nat) (busy : s.busy = true) (pending : s.pend ≠ .none)
    (htodo : d.todo = (Pseudo.poll l).lines ++ rest) :
    ∃ env, together (.host :: List.replicate (2 * k) .host ++ [.engine, .host, .host]) (d, s) =
      some ({ d with todo := rest, env := env }, afterPoll k s) := by
  have hopen : (statusReads k s).rst = false := by simpa [statusReads_eq] using open_
  have hopen' : (engineStep (statusReads k s)).rst = false := by rw [engineStep_rst, hopen]
  have hidle : ¬(engineStep (statusReads k s)).busy = true := by
    rw [engineStep_busy (by simpa [statusReads_eq] using pending)]
    decide
  obtain ⟨env, hpasses⟩ := together_poll_passes (d := { d with todo := pollPass l ++ rest })
    open_ hbelow k busy rfl
  have hlast := together_poll_pass (d := { d with todo := pollPass l ++ rest, env := env })
    hopen' hbelow rfl
  rw [if_neg hidle] at hlast
  refine ⟨("t", statusWord (engineStep (statusReads k s))) :: env, ?_⟩
  rw [List.cons_append, together_host (turn_poll_label htodo), together_append, hpasses,
    Option.bind_some, together_engine hopen]
  exact hlast

/-- Host and core agree on where POLL leads: the events of `pollEvents` lead the core there. -/
theorem poll_leaves_after_completion (k : Nat) (busy : s.busy = true) (pending : s.pend ≠ .none)
    (htodo : d.todo = (Pseudo.poll l).lines ++ rest) :
    ∃ (t : State) (env : List (String × Word)),
      core.run (k + 2) { s with inputs := pollEvents l k ++ s.inputs } = .next t ∧
      together (.host :: List.replicate (2 * k) .host ++ [.engine, .host, .host]) (d, s) =
        some ({ d with todo := rest, env := env }, t) ∧
      t.busy = false ∧
      t.reads = statusWord t :: List.replicate k (statusWord s) ++ s.reads := by
  obtain ⟨env, hhost⟩ := together_poll open_ hbelow k busy pending htodo
  refine ⟨afterPoll k s, env, ?_, hhost, afterPoll_busy k pending, afterPoll_reads k s⟩
  rw [run_pollEvents open_, ← afterPoll_inputs]

end Poll

/-- Settles O46: the expansions by definition, ABSORB's word by `absorb_line_word`, CHKERR's test by
`errIsZero_statusWord`, and POLL line by line, pass by pass and as a loop. -/
theorem pseudoInstructionsExpand : Obligations.PseudoInstructionsExpand := by
  refine ⟨rfl, rfl, fun n => absorb_lines, absorb_events, rfl, rfl, fun l => rfl,
    fun b _ => ⟨padBlock b, rfl, rfl⟩, rfl, rfl, errIsZero_statusWord, fun r v name => ⟨rfl, rfl⟩,
    rfl, rfl, rfl, rfl, ?_, ?_, ?_⟩
  · intro d s l rest _ htodo _
    exact together_host (turn_poll_label htodo)
  · intro d s l rest open_ htodo hbelow
    exact together_poll_pass open_ hbelow htodo
  · intro d s l k rest open_ busy pending htodo hbelow
    exact poll_leaves_after_completion open_ hbelow k busy pending htodo

end Sys2Proof.Machine
end

section
/-! The permutation: rotation bit by bit (40_permutation.md R100), the schedule (R101), one round (R102)
and its inverse (R106), and what follows for `Mix` (R103, R105). -/

namespace Sys2Proof.Machine

/-! ## Rotation -/

theorem legalAmount_iff {r : Nat} : legalAmount r = true ↔ 1 ≤ r ∧ r ≤ 63 := by
  simp [legalAmount]

/-- A bit that stays below 64 comes from the left shift, and one that wraps around from the right. -/
theorem getLsbD_rotl64 (x : Word) {r i : Nat} (hr : r ≤ 63) (hi : i < 64) :
    (rotl64 x r).getLsbD ((i + r) % 64) = x.getLsbD i := by
  unfold rotl64
  rw [BitVec.getLsbD_or, BitVec.getLsbD_shiftLeft, BitVec.getLsbD_ushiftRight]
  by_cases stays : i + r < 64
  · have hright : x.getLsbD (64 - r + (i + r)) = false := BitVec.getLsbD_of_ge _ _ (by omega)
    simp [Nat.mod_eq_of_lt stays, stays, hright]
  · have hwrap : (i + r) % 64 = i + r - 64 := by omega
    have hleft : i + r - 64 < r := by omega
    have hback : 64 - r + (i + r - 64) = i := by omega
    simp [hwrap, hleft, hback]

@[simp] theorem rotl64_zero_word (r : Nat) : rotl64 0#64 r = 0#64 := by simp [rotl64]

/-- Two rotations whose amounts add up to 64 turn every bit once around. -/
theorem rotl64_rotl64 (x : Word) {r t : Nat} (hr : r ≤ 63) (ht : t ≤ 63) (hsum : r + t = 64) :
    rotl64 (rotl64 x r) t = x := by
  refine BitVec.eq_of_getLsbD_eq fun i hi => ?_
  have hback : ((i + r) % 64 + t) % 64 = i := by omega
  calc (rotl64 (rotl64 x r) t).getLsbD i
      = (rotl64 (rotl64 x r) t).getLsbD (((i + r) % 64 + t) % 64) := by rw [hback]
    _ = (rotl64 x r).getLsbD ((i + r) % 64) := getLsbD_rotl64 _ ht (Nat.mod_lt _ (by decide))
    _ = x.getLsbD i := getLsbD_rotl64 x hr hi

section Amount
variable {r : Nat} (legal : legalAmount r = true)
include legal

theorem rotr64_rotl64 (x : Word) : rotr64 (rotl64 x r) r = x := by
  obtain ⟨hlo, hhi⟩ := legalAmount_iff.mp legal
  exact rotl64_rotl64 x hhi (by omega) (by omega)

theorem rotl64_rotr64 (x : Word) : rotl64 (rotr64 x r) r = x := by
  obtain ⟨hlo, hhi⟩ := legalAmount_iff.mp legal
  exact rotl64_rotl64 x (by omega) hhi (by omega)

end Amount

/-! ## The schedule -/

section Schedule
variable (c : Config) (i : Nat)

theorem rot_length_pos : 0 < c.raw.rot.length := by
  have h := c.legal
  simp only [RawConfig.legal, Bool.and_eq_true, decide_eq_true_eq] at h
  omega

theorem legalAmount_of_mem_rot {p : Nat × Nat} (hp : p ∈ c.raw.rot) :
    legalAmount p.1 = true ∧ legalAmount p.2 = true := by
  have h := c.legal
  simp only [RawConfig.legal, Bool.and_eq_true, List.all_eq_true] at h
  obtain ⟨⟨⟨⟨⟨-, hall⟩, -⟩, -⟩, -⟩, -⟩ := h
  exact hall p hp

/-- The index is always inside the table, so the lookup of `rotPair` never takes its default. -/
theorem getElem?_rot_mod : c.raw.rot[i % c.raw.rot.length]? = some (rotPair c i) := by
  have hlt : i % c.raw.rot.length < c.raw.rot.length := Nat.mod_lt _ (rot_length_pos c)
  rw [rotPair, List.getD_eq_getElem _ _ hlt, List.getElem?_eq_getElem hlt]

theorem legalAmount_rotPair :
    legalAmount (rotPair c i).1 = true ∧ legalAmount (rotPair c i).2 = true :=
  legalAmount_of_mem_rot c (List.mem_of_getElem? (getElem?_rot_mod c i))

theorem rotPair_add_of_dvd {a : Nat} (h : c.raw.rot.length ∣ a) : rotPair c (a + i) = rotPair c i := by
  obtain ⟨k, rfl⟩ := h
  simp [rotPair]

end Schedule

/-! ## One round -/

@[simp] theorem swapWords_swapWords (sel : SwapSel) (q : Quad) :
    swapWords sel (swapWords sel q) = q := by
  cases sel <;> rfl

theorem mixRound_of_swap01 {c : Config} (h : c.raw.swapSel = .swap01) (q : Quad) (i : Nat) :
    mixRound c q i =
      ⟨q.w1 + q.w3, q.w0 + q.w2,
       rotl64 q.w2 (rotPair c i).1 ^^^ (q.w0 + q.w2),
       rotl64 q.w3 (rotPair c i).2 ^^^ (q.w1 + q.w3)⟩ := by
  rw [mixRound, h]
  rfl

theorem mixRound_of_swap23 {c : Config} (h : c.raw.swapSel = .swap23) (q : Quad) (i : Nat) :
    mixRound c q i =
      ⟨q.w0 + q.w2, q.w1 + q.w3,
       rotl64 q.w3 (rotPair c i).2 ^^^ (q.w1 + q.w3),
       rotl64 q.w2 (rotPair c i).1 ^^^ (q.w0 + q.w2)⟩ := by
  rw [mixRound, h]
  rfl

section Pair
variable {r : Nat × Nat} (legal : legalAmount r.1 = true ∧ legalAmount r.2 = true)
include legal

/-- The XOR with the new sums is undone by the same XOR, and the sums by subtracting the old words 2
and 3 that come back. -/
theorem invArx_arx (q : Quad) : invArx r (arx r q) = q := by
  simp [invArx, arx, rotr64_rotl64 legal.1, rotr64_rotl64 legal.2]

theorem arx_invArx (q : Quad) : arx r (invArx r q) = q := by
  simp [invArx, arx, rotl64_rotr64 legal.1, rotl64_rotr64 legal.2]

end Pair

section Rounds
variable (c : Config) (q : Quad) (i : Nat)

@[simp] theorem invRound_mixRound : invRound c (mixRound c q i) i = q := by
  rw [invRound, mixRound, swapWords_swapWords, invArx_arx (legalAmount_rotPair c i)]

@[simp] theorem mixRound_invRound : mixRound c (invRound c q i) i = q := by
  rw [mixRound, invRound, arx_invArx (legalAmount_rotPair c i), swapWords_swapWords]

theorem mixRound_add_of_dvd {a : Nat} (h : c.raw.rot.length ∣ a) :
    mixRound c q (a + i) = mixRound c q i := by
  rw [mixRound, mixRound, rotPair_add_of_dvd c i h]

@[simp] theorem mixRound_zero_state :
    mixRound c ⟨0#64, 0#64, 0#64, 0#64⟩ i = ⟨0#64, 0#64, 0#64, 0#64⟩ := by
  cases h : c.raw.swapSel with
  | swap01 => simp [mixRound_of_swap01 h]
  | swap23 => simp [mixRound_of_swap23 h]

/-! ## Mix -/

theorem mix_succ (r : Nat) : mix c q (r + 1) = mixRound c (mix c q r) r := rfl

theorem invMix_succ (r : Nat) : invMix c q (r + 1) = invMix c (invRound c q r) r := rfl

theorem mix_eq_foldl (r : Nat) :
    mix c q r = (List.range r).foldl (fun q i => mixRound c q i) q := by
  induction r with
  | zero => rfl
  | succ r ih => rw [mix_succ, ih, List.range_succ, List.foldl_concat]

theorem invMix_mix (r : Nat) : invMix c (mix c q r) r = q := by
  induction r with
  | zero => rfl
  | succ r ih => rw [mix_succ, invMix_succ, invRound_mixRound, ih]

theorem mix_invMix (r : Nat) : mix c (invMix c q r) r = q := by
  induction r generalizing q with
  | zero => rfl
  | succ r ih => rw [invMix_succ, mix_succ, ih, mixRound_invRound]

theorem bijective_mix (r : Nat) : Function.Bijective (fun q => mix c q r) :=
  Function.bijective_iff_has_inverse.mpr
    ⟨fun q => invMix c q r, fun q => invMix_mix c q r, fun q => mix_invMix c q r⟩

theorem mix_zero_state (r : Nat) :
    mix c ⟨0#64, 0#64, 0#64, 0#64⟩ r = ⟨0#64, 0#64, 0#64, 0#64⟩ := by
  induction r with
  | zero => rfl
  | succ r ih => rw [mix_succ, ih, mixRound_zero_state]

/-- Round `a + b` uses the pair of round `b`, so the rounds after the first `a` are a `Mix` of their
own. -/
theorem mix_add_of_dvd {a : Nat} (h : c.raw.rot.length ∣ a) (b : Nat) :
    mix c q (a + b) = mix c (mix c q a) b := by
  induction b with
  | zero => rfl
  | succ b ih => rw [← Nat.add_assoc, mix_succ, ih, mixRound_add_of_dvd _ _ _ h, mix_succ]

end Rounds

/-! ## The statements -/

/-- Settles O48, by `getLsbD_rotl64`. -/
theorem rotationMovesEveryBit : Obligations.RotationMovesEveryBit :=
  fun x _ _ _ hr hi => getLsbD_rotl64 x hr hi

/-- Settles O49: the lookup stays inside the table, the table's amounts are legal, and `Mix` is the
fold of the rounds by induction on their number. -/
theorem rotationScheduleCyclesTheTable : Obligations.RotationScheduleCyclesTheTable := by
  refine ⟨fun c i => ?_, mix_eq_foldl⟩
  obtain ⟨h1, h2⟩ := legalAmount_rotPair c i
  obtain ⟨hlo1, hhi1⟩ := legalAmount_iff.mp h1
  obtain ⟨hlo2, hhi2⟩ := legalAmount_iff.mp h2
  exact ⟨getElem?_rot_mod c i, hlo1, hhi1, hlo2, hhi2⟩

/-- Settles O50: each step of a round is undone by its own inverse, and `Mix` round by round. -/
theorem inverseRoundUndoesARound : Obligations.InverseRoundUndoesARound :=
  ⟨fun c q i => ⟨invRound_mixRound c q i, mixRound_invRound c q i⟩, bijective_mix,
    fun c q r => ⟨invMix_mix c q r, mix_invMix c q r⟩⟩

/-- Settles O51, for `Mix` by induction on the number of rounds. -/
theorem zeroStateIsAFixedPoint : Obligations.ZeroStateIsAFixedPoint :=
  ⟨mixRound_zero_state, mix_zero_state⟩

/-- Settles O52: by induction on the rounds after the split; TH1's table has 7 entries. -/
theorem mixSplitsAtTheTableLength : Obligations.MixSplitsAtTheTableLength :=
  ⟨fun c q _ b h => mix_add_of_dvd c q h b,
    fun q => mix_add_of_dvd Config.th1 q (a := 7) (by decide) 7⟩

/-- Settles O47: one equation for each swap pair. -/
theorem roundFollowsTheFiveSteps : Obligations.RoundFollowsTheFiveSteps :=
  fun _ q i => ⟨fun h => mixRound_of_swap01 h q i, fun h => mixRound_of_swap23 h q i⟩

end Sys2Proof.Machine
end

section
/-! The hash algorithm: absorbing block by block (41_hash_algorithm.md R110 to R114), the digest and
the registers that hold it (R117, R161), and which messages have one (R118, R120). -/

namespace Sys2Proof.Machine

/-! ## Absorbing blocks -/

section Blocks

variable (c : Config) (q : Quad)

/-- One turn of the loop of 41_hash_algorithm.md R119, on bytes that remain. -/
theorem absorbLoop_succ (k : Nat) {m : List Byte} (hm : m ≠ []) :
    absorbLoop c (k + 1) q m =
      absorbLoop c k (absorbWords c q (quadOfBytes (padBlock (m.take 32)))) (m.drop 32) := by
  cases m with
  | nil => contradiction
  | cons => rfl

/-- A message of at most one block is absorbed in one turn of the loop. -/
theorem absorbLoop_block (k : Nat) {b : List Byte} (hpos : 1 ≤ b.length) (hle : b.length ≤ 32) :
    absorbLoop c (k + 1) q b = absorbWords c q (quadOfBytes (padBlock b)) := by
  rw [absorbLoop_succ c q k (List.ne_nil_of_length_pos hpos), List.take_of_length_le hle,
    List.drop_eq_nil_of_le hle, absorbLoop_nil]

/-- Full blocks leave nothing over, so the bytes after them start a block of their own. -/
theorem absorbLoop_append_block {k : Nat} {m b : List Byte} (hfull : m.length % 32 = 0)
    (hpos : 1 ≤ b.length) (hle : b.length ≤ 32) (hk : m.length + b.length ≤ k) :
    absorbLoop c k q (m ++ b) =
      absorbWords c (absorbLoop c k q m) (quadOfBytes (padBlock b)) := by
  induction k generalizing q m with
  | zero => omega
  | succ k ih =>
    rcases eq_or_ne m [] with rfl | hm
    · rw [List.nil_append, absorbLoop_nil, absorbLoop_block c q k hpos hle]
    · have hmpos := List.length_pos_of_ne_nil hm
      have h32 : 32 ≤ m.length := by omega
      have hdrop : (m.drop 32).length = m.length - 32 := List.length_drop
      rw [absorbLoop_succ c q k hm, absorbLoop_succ c q k (List.append_ne_nil_of_left_ne_nil hm b),
        List.take_append_of_le_length h32, List.drop_append_of_le_length h32]
      exact ih _ (by omega) (by omega)

theorem absorbMessage_append_block {m b : List Byte} (hfull : m.length % 32 = 0)
    (hpos : 1 ≤ b.length) (hle : b.length ≤ 32) :
    absorbMessage c (m ++ b) =
      absorbWords c (absorbMessage c m) (quadOfBytes (padBlock b)) := by
  unfold absorbMessage
  rw [List.length_append, absorbLoop_append_block c _ hfull hpos hle le_rfl,
    absorbLoop_bound c m.length (m.length + b.length) _ m le_rfl (by omega)]

end Blocks

/-- Settles O56: `absorbMessage_append_block`, which splits the loop at the last full block. -/
theorem absorbingOneMoreBlock : Obligations.AbsorbingOneMoreBlock :=
  ⟨absorbMessage_nil, fun c _ _ hfull hpos hle => absorbMessage_append_block c hfull hpos hle⟩

/-! ## The digest -/

theorem take_four_unle64 (w : Word) :
    (unle64 w).take 4 = [byteOf w 0, byteOf w 1, byteOf w 2, byteOf w 3] := rfl

/-- The digest ends inside word 2 (41_hash_algorithm.md R117). -/
theorem digestBytes_eq (q : Quad) :
    digestBytes q = unle64 q.w0 ++ unle64 q.w1 ++ (unle64 q.w2).take 4 := by
  have hlen : (unle64 q.w0 ++ unle64 q.w1).length = 16 := by simp
  unfold digestBytes quadBytes
  rw [List.append_assoc, List.take_append, hlen, List.take_of_length_le (by omega),
    List.take_append_of_le_length (by simp)]

/-- The low half of a word, the upper one cleared, has the word's low four bytes. -/
theorem byteOf_low_half (w : Word) {k : Nat} (hk : k < 4) :
    byteOf ((w.extractLsb' 0 32).setWidth 64) k = byteOf w k := by
  apply BitVec.eq_of_getLsbD_eq
  intro i hi
  have hlt : 8 * k + i < 32 := by omega
  rw [byteOf_getLsbD, byteOf_getLsbD, BitVec.getLsbD_setWidth, BitVec.getLsbD_extractLsb']
  simp [hi, hlt, Nat.lt_trans hlt (by decide : 32 < 64)]

theorem hostDigest_digestWord (q : Quad) :
    hostDigest (digestWord q 0) (digestWord q 1) (digestWord q 2) = digestBytes q := by
  rw [digestBytes_eq]
  unfold hostDigest digestWord
  rw [take_four_unle64, take_four_unle64, byteOf_low_half _ (by decide),
    byteOf_low_half _ (by decide), byteOf_low_half _ (by decide), byteOf_low_half _ (by decide)]

theorem digestView_of_valid {s : State} (done : s.phase = phaseDone) (idle : s.busy = false)
    (j : Fin 3) : digestView s j = digestWord s.S j :=
  if_pos (by simp [digestValid, done, idle])

/-- Settles O54: the registers show the state's words (`digestView_of_valid`), whose bytes are the
digest (`hostDigest_digestWord`). -/
theorem digestRegistersHoldTheDigest : Obligations.DigestRegistersHoldTheDigest := by
  refine ⟨fun q => ?_, fun s done idle => ?_⟩
  · rw [digestBytes_eq, take_four_unle64]
  · rw [digestView_of_valid done idle, digestView_of_valid done idle,
      digestView_of_valid done idle, hostDigest_digestWord]

/-! ## The length bound -/

theorem tentHash_isSome {c : Config} {m : List Byte} :
    (tentHash c m).isSome = true ↔ m.length ≤ lenMax := by
  simp [tentHash]

theorem tentHash_eq_some {c : Config} {m d : List Byte} :
    tentHash c m = some d ↔ m.length ≤ lenMax ∧ digestBytes (finalState c m) = d := by
  simp [tentHash]

/-- Settles O55: the bound by `tentHash_isSome`, the size because a hash is the digest of a state. -/
theorem digestHasTwentyBytes : Obligations.DigestHasTwentyBytes := by
  refine fun c m => ⟨tentHash_isSome, fun d h => ?_⟩
  obtain ⟨-, rfl⟩ := tentHash_eq_some.mp h
  exact length_digestBytes _

end Sys2Proof.Machine
end

section
/-! SUPPORT. The command family (42_commands.md): what a CMD write does, by its checks in their order
(R131, R142), acceptance and completion of each command (R132 to R139, R141), and the latched block
(R134). -/

namespace Sys2Proof.Machine

/-! ## The checks -/

section Checks
variable {s : State}

theorem unlessBusy_of_busy (k : State → State) (busy : s.busy = true) :
    unlessBusy k s = raise .busyErr s := if_pos busy

theorem unlessBusy_of_idle (k : State → State) (idle : s.busy = false) : unlessBusy k s = k s :=
  if_neg (by simp [idle])

theorem absorbChecked_of_not_open {n : Nat} (notOpen : s.phase ≠ phaseOpen) :
    absorbChecked n s = raise .sequence s := if_pos notOpen

theorem absorbChecked_of_overflow {n : Nat} (isOpen : s.phase = phaseOpen)
    (tooLong : lenMax < s.len.toNat + n) : absorbChecked n s = raise .lenOvf s :=
  (if_neg (not_not.mpr isOpen)).trans (if_pos tooLong)

theorem absorbChecked_of_fits {n : Nat} (isOpen : s.phase = phaseOpen)
    (fits : s.len.toNat + n ≤ lenMax) : absorbChecked n s = absorbAccept n s :=
  (if_neg (not_not.mpr isOpen)).trans (if_neg (Nat.not_lt.mpr fits))

theorem finalChecked_of_done (done : s.phase = phaseDone) : finalChecked s = raise .sequence s :=
  if_pos done

theorem finalChecked_of_not_done (notDone : s.phase ≠ phaseDone) : finalChecked s = finalAccept s :=
  if_neg notDone

end Checks

/-! ## A command and a CMD write -/

theorem runCommand_absorb (nm1 : BitVec 5) (s : State) :
    runCommand (.absorb nm1) s = absorbChecked (byteCount nm1) s := rfl

theorem runCommand_final (s : State) : runCommand .final s = finalChecked s := rfl

theorem exec_toInstr (c : Command) (s : State) :
    exec c.toInstr s = .next (unlessBusy (runCommand c) s) := by
  cases c <;> rfl

theorem cmdWrite_of_ok {v : Word} {c : Command} (h : decodeCommand v = .ok c) (s : State) :
    cmdWrite v s = unlessBusy (runCommand c) s := by
  simp only [cmdWrite, h]

theorem cmdWrite_of_error {v : Word} {e : DecodeError} (h : decodeCommand v = .error e) (s : State) :
    cmdWrite v s = unlessBusy (raise .illegalCmd) s := by
  simp only [cmdWrite, h]

section Exec
variable {s : State}

theorem exec_command_busy (c : Command) (busy : s.busy = true) :
    exec c.toInstr s = .next (raise .busyErr s) := by
  rw [exec_toInstr, unlessBusy_of_busy _ busy]

theorem exec_command_idle (c : Command) (idle : s.busy = false) :
    exec c.toInstr s = .next (runCommand c s) := by
  rw [exec_toInstr, unlessBusy_of_idle _ idle]

theorem exec_wrCmd_busy (v : Word) (busy : s.busy = true) :
    exec (.wrCmd v) s = .next (raise .busyErr s) :=
  congrArg Host.Outcome.next (unlessBusy_of_busy _ busy)

theorem exec_wrCmd_illegal {v : Word} {e : DecodeError} (h : decodeCommand v = .error e)
    (idle : s.busy = false) : exec (.wrCmd v) s = .next (raise .illegalCmd s) := by
  rw [exec, execWrCmd, cmdWrite_of_error h, unlessBusy_of_idle _ idle]

theorem exec_wrCmd_idle {v : Word} {c : Command} (h : decodeCommand v = .ok c)
    (idle : s.busy = false) : exec (.wrCmd v) s = .next (runCommand c s) := by
  rw [exec_wrCmd h, exec_command_idle c idle]

theorem exec_absorb_idle {nm1 : BitVec 5} (idle : s.busy = false) :
    exec (.absorb nm1) s = .next (absorbChecked (byteCount nm1) s) :=
  exec_command_idle (.absorb nm1) idle

theorem exec_final_idle (idle : s.busy = false) : exec .final s = .next (finalChecked s) :=
  exec_command_idle .final idle

end Exec

/-- Settles O28: BUSY by `exec_wrCmd_busy`, a word with no command by `exec_wrCmd_illegal`, and a
command by the equations of its own checks. -/
theorem commandWriteChecksInOrder : Obligations.CommandWriteChecksInOrder := by
  intro s v
  refine ⟨exec_wrCmd_busy v, fun idle => ⟨fun e he => exec_wrCmd_illegal he idle,
    fun hv => exec_wrCmd_idle hv idle, fun hv => exec_wrCmd_idle hv idle, fun nm1 hv => ?_,
    fun hv => ?_⟩⟩
  · rw [exec_wrCmd_idle hv idle, runCommand_absorb]
    refine ⟨fun notOpen => ?_, fun isOpen tooLong => ?_, fun isOpen fits => ?_⟩
    · rw [absorbChecked_of_not_open notOpen]
    · rw [absorbChecked_of_overflow isOpen tooLong]
    · rw [absorbChecked_of_fits isOpen fits]
      rfl
  · rw [exec_wrCmd_idle hv idle, runCommand_final]
    refine ⟨fun done => ?_, fun notDone => ?_⟩
    · rw [finalChecked_of_done done]
    · rw [finalChecked_of_not_done notDone]
      rfl

/-! ## Words that are no command -/

theorem exec_wrCmd_of_no_command {v : Word} (hv : ∀ c, encodeCommand c ≠ v) {s : State}
    (idle : s.busy = false) : exec (.wrCmd v) s = .next (raise .illegalCmd s) := by
  cases h : decodeCommand v with
  | error e => exact exec_wrCmd_illegal h idle
  | ok c => exact absurd (encodeCommand_of_decodeCommand h) (hv c)

/-- INIT and FINAL are told from every other command by their OP (30_encoding.md R71). -/
theorem command_eq_of_opField {b c : Command} (hb : b = .init ∨ b = .final)
    (hop : opField (encodeCommand c) = opField (encodeCommand b)) : c = b := by
  obtain rfl | rfl := hb <;> cases c <;> simp [encodeCommand] at hop ⊢

theorem encodeCommand_ne_of_opField {v : Word} {b : Command} (hb : b = .init ∨ b = .final)
    (hop : opField v = opField (encodeCommand b)) (hne : v ≠ encodeCommand b) (c : Command) :
    encodeCommand c ≠ v := by
  rintro rfl
  exact hne (congrArg encodeCommand (command_eq_of_opField hb hop))

theorem encodeCommand_ne_of_reserved {v : Word} (hv : res0Field v ≠ 0 ∨ res1Field v ≠ 0)
    (c : Command) : encodeCommand c ≠ v := by
  rintro rfl
  cases c <;> simp [encodeCommand] at hv

/-! ## Acceptance -/

/-- Settles O21: an idle NOP runs `nopAccept`, which is the state itself. -/
theorem nopChangesNothing : Obligations.NopChangesNothing :=
  ⟨by decide, fun _ idle => exec_command_idle .nop idle, fun _ busy => exec_command_busy .nop busy⟩

/-- Settles O22: INIT has no check of its own, and no other word with its OP is a command. -/
theorem initAcceptance : Obligations.InitAcceptance := by
  refine ⟨by decide, fun _ idle => exec_command_idle .init idle,
    fun _ busy => exec_command_busy .init busy, fun s v idle hop hne => ?_⟩
  exact exec_wrCmd_of_no_command (encodeCommand_ne_of_opField (.inl rfl) hop hne) idle

/-- Settles O26: the check of FINAL is `finalChecked`, and no other word with its OP is a command. -/
theorem finalAcceptance : Obligations.FinalAcceptance := by
  refine ⟨by decide, fun s idle notDone => ?_, fun _ busy => exec_command_busy .final busy,
    fun s v idle hop hne => ?_, fun s idle done => ?_⟩
  · rw [exec_final_idle idle, finalChecked_of_not_done notDone]
    rfl
  · exact exec_wrCmd_of_no_command (encodeCommand_ne_of_opField (.inr rfl) hop hne) idle
  · rw [exec_final_idle idle, finalChecked_of_done done]

theorem encodeCommand_absorb_count (nm1 : BitVec 5) :
    encodeCommand (.absorb nm1) = 0x2#64 ||| (BitVec.ofNat 64 (byteCount nm1 - 1) <<< 8) := by
  have hcount : byteCount nm1 - 1 = nm1.toNat := rfl
  rw [encodeCommand_absorb, hcount, ← setWidth_countField nm1.isLt, BitVec.ofNat_toNat,
    BitVec.setWidth_eq]

/-- Settles O24: the word by `encodeCommand_absorb_count`, the checks by those of `absorbChecked`. -/
theorem absorbAcceptance : Obligations.AbsorbAcceptance := by
  refine ⟨encodeCommand_absorb_count, fun s nm1 idle isOpen fits => ?_,
    fun _ nm1 busy => exec_command_busy (.absorb nm1) busy, fun s v idle _ hres => ?_,
    fun s nm1 idle notOpen => ?_, fun s nm1 idle isOpen tooLong => ?_⟩
  · rw [exec_absorb_idle idle, absorbChecked_of_fits isOpen fits]
    rfl
  · exact exec_wrCmd_of_no_command (encodeCommand_ne_of_reserved hres) idle
  · rw [exec_absorb_idle idle, absorbChecked_of_not_open notOpen]
  · rw [exec_absorb_idle idle, absorbChecked_of_overflow isOpen tooLong]

/-! ## Completion -/

section Completion
variable {s : State}

theorem engineStep_of_init (h : s.pend = .init) : engineStep s = initComplete s := by
  unfold engineStep
  rw [h]

theorem engineStep_of_absorb {wm : Quad} (h : s.pend = .absorb wm) :
    engineStep s = absorbComplete wm s := by
  unfold engineStep
  rw [h]

theorem engineStep_of_final {lb : Word} (h : s.pend = .final lb) :
    engineStep s = finalComplete lb s := by
  unfold engineStep
  rw [h]

@[simp] theorem engineStep_pend : (engineStep s).pend = .none := by
  obtain ⟨idle, h⟩ | ⟨q, -, h⟩ := engineStep_cases s <;> rw [h]
  · exact idle
  · exact complete_pend s q

end Completion

/-- Settles O17: one equation for each pending operation. -/
theorem completionWritesTheState : Obligations.CompletionWritesTheState :=
  fun _ => ⟨engineStep_of_init, fun _ => engineStep_of_absorb, fun _ => engineStep_of_final⟩

section Step
variable {s : State}

theorem step_of_nil (h : s.inputs = []) : step s = .next (engineTurn s) := by
  unfold step
  rw [h]

theorem step_of_engine {es : List Event} (h : s.inputs = .engine :: es) :
    step s = .next (engineTurn (consume s)) := by
  unfold step
  rw [h]

theorem step_of_rst {l : Bool} {es : List Event} (h : s.inputs = .rst l :: es) :
    step s = .next (driveRst l (consume s)) := by
  unfold step
  rw [h]

theorem step_of_transaction {x : Transaction} {es : List Event} (h : s.inputs = .transaction x :: es)
    (open_ : s.rst = false) : step s = exec (decode x) (consume s) := by
  unfold step
  rw [h]
  exact if_neg (by simp [open_])

/-- With the port open the Engine's turn is its step, whatever event gives it the turn. -/
theorem step_engineTurn (open_ : s.rst = false)
    (turn : s.inputs = [] ∨ ∃ es, s.inputs = .engine :: es) :
    step s = .next { engineStep s with inputs := s.inputs.tail } := by
  have hstep : step s = .next (engineTurn (consume s)) := by
    obtain h | ⟨es, h⟩ := turn
    · rw [step_of_nil h, consume_of_nil h]
    · exact step_of_engine h
  rw [hstep, engineTurn, if_neg (by simp [open_]), consume, engineStep_withInputs]

end Step

/-- Settles O18: the turn is `engineStep`, which with nothing pending is no step. -/
theorem engineTurnCompletesThePendingOperation :
    Obligations.EngineTurnCompletesThePendingOperation := by
  intro s open_ turn
  refine ⟨fun idle => ?_, fun pending => ?_⟩
  · rw [step_engineTurn open_ turn, engineStep_of_idle idle]
  · exact ⟨engineStep s, step_engineTurn open_ turn, rfl, engineStep_pend, engineStep_busy pending⟩

/-- Settles O23: INIT's completion writes S, PEND and BUSY, its acceptance the rest of the reset
values. -/
theorem initCompletionGivesTheResetState : Obligations.InitCompletionGivesTheResetState :=
  fun _ idle => ⟨_, exec_command_idle .init idle, rfl⟩

/-! ## The latched block -/

section Block
variable (q : Quad) (n : Nat)

theorem maskedBlock_word (j : Fin 4) : (maskedBlock q n).word j = q.word j &&& byteMask n j := by
  fin_cases j <;> rfl

/-- Byte `8j + k` of a block is byte `k` of its word `j` (10_state.md R26). -/
theorem getElem?_quadBytes (j : Fin 4) {k : Nat} (hk : k < 8) :
    (quadBytes q)[8 * j.val + k]? = some (byteOf (q.word j) k) := by
  fin_cases j <;> interval_cases k <;> rfl

/-- Byte `i` of the masked block is that of BLK below `n`, and 0 from `n` on. -/
theorem getElem?_quadBytes_maskedBlock {i : Nat} (hi : i < 32) :
    (quadBytes (maskedBlock q n))[i]? = if i < n then (quadBytes q)[i]? else some 0#8 := by
  obtain ⟨j, k, hk, rfl⟩ : ∃ (j : Fin 4) (k : Nat), k < 8 ∧ i = 8 * j.val + k :=
    ⟨⟨i / 8, by omega⟩, i % 8, by omega, by simp only; omega⟩
  rw [getElem?_quadBytes _ _ hk, getElem?_quadBytes _ _ hk, maskedBlock_word,
    byteOf_and_byteMask _ _ _ _ hk]
  split <;> rfl

theorem quadBytes_maskedBlock (hn : n ≤ 32) :
    quadBytes (maskedBlock q n) = (quadBytes q).take n ++ List.replicate (32 - n) 0#8 := by
  have hlen : ((quadBytes q).take n).length = n := by simp [hn]
  refine List.ext_getElem? fun i => ?_
  by_cases hi : i < 32
  · rw [getElem?_quadBytes_maskedBlock _ _ hi]
    split
    · next hin => rw [List.getElem?_append_left (by omega), List.getElem?_take_of_lt hin]
    · next hin =>
      rw [List.getElem?_append_right (by omega), hlen, List.getElem?_replicate_of_lt (by omega)]
  · rw [List.getElem?_eq_none (by simp; omega), List.getElem?_eq_none (by simp [hn]; omega)]

/-- The words of the masked block are those of the zero-padded block (41_hash_algorithm.md R112). -/
theorem maskedBlock_eq_quadOfBytes (hn : n ≤ 32) :
    maskedBlock q n = quadOfBytes (padBlock ((quadBytes q).take n)) := by
  have hlen : ((quadBytes q).take n).length = n := by simp [hn]
  rw [padBlock, hlen, ← quadBytes_maskedBlock q n hn, quadOfBytes_quadBytes]

end Block

/-- Settles O25: byte by byte (`getElem?_quadBytes_maskedBlock`), and the words are those of the
bytes. -/
theorem latchedBlockIsTheZeroPaddedBlock : Obligations.LatchedBlockIsTheZeroPaddedBlock := by
  refine ⟨quadBytes_maskedBlock, fun q n _ hn => maskedBlock_eq_quadOfBytes q n hn,
    fun s nm1 idle isOpen fits => ?_⟩
  obtain ⟨-, hn⟩ := byteCount_bounds nm1
  refine ⟨absorbAccept (byteCount nm1) s, maskedBlock s.blk (byteCount nm1), ?_, rfl, rfl,
    quadBytes_maskedBlock _ _ hn⟩
  rw [exec_absorb_idle idle, absorbChecked_of_fits isOpen fits]

end Sys2Proof.Machine
end

section
/-! SUPPORT. The function computed (42_commands.md R142, R143): what a CMD write does to the message, and
every step keeps the relation between a core and the message it has absorbed. -/

namespace Sys2Proof.Machine

/-! ## The message after a CMD write -/

section Message
variable {v : Word} {s : State}

theorem messageAfterCmd_of_busy (busy : s.busy = true) (m : List Byte) :
    messageAfterCmd v s m = m := if_pos busy

theorem messageAfterCmd_of_error {e : DecodeError} (hv : decodeCommand v = .error e)
    (m : List Byte) : messageAfterCmd v s m = m := by
  simp [messageAfterCmd, hv]

theorem messageAfterCmd_of_nop (hv : decodeCommand v = .ok .nop) (m : List Byte) :
    messageAfterCmd v s m = m := by
  simp [messageAfterCmd, hv]

theorem messageAfterCmd_of_final (hv : decodeCommand v = .ok .final) (m : List Byte) :
    messageAfterCmd v s m = m := by
  simp [messageAfterCmd, hv]

theorem messageAfterCmd_of_init (hv : decodeCommand v = .ok .init) (idle : s.busy = false)
    (m : List Byte) : messageAfterCmd v s m = [] := by
  simp [messageAfterCmd, hv, idle]

theorem messageAfterCmd_of_absorb {nm1 : BitVec 5} (hv : decodeCommand v = .ok (.absorb nm1))
    (idle : s.busy = false) (isOpen : s.phase = phaseOpen)
    (fits : s.len.toNat + byteCount nm1 ≤ lenMax) (m : List Byte) :
    messageAfterCmd v s m = m ++ (quadBytes s.blk).take (byteCount nm1) := by
  simp [messageAfterCmd, hv, idle, isOpen, fits]

theorem messageAfterCmd_of_rejected_absorb {nm1 : BitVec 5}
    (hv : decodeCommand v = .ok (.absorb nm1))
    (rejected : ¬(s.phase = phaseOpen ∧ s.len.toNat + byteCount nm1 ≤ lenMax)) (m : List Byte) :
    messageAfterCmd v s m = m := by
  simp [messageAfterCmd, hv, rejected]

end Message

/-- What a CMD write can do: raise an error and leave the message, or accept its command. -/
inductive CommandEffect (v : Word) (s : State) : State → Prop where
  | rejected (e : ErrorKind) (same : ∀ m, messageAfterCmd v s m = m) : CommandEffect v s (raise e s)
  | nop (hv : decodeCommand v = .ok .nop) (idle : s.busy = false) : CommandEffect v s s
  | init (hv : decodeCommand v = .ok .init) (idle : s.busy = false) :
      CommandEffect v s (initAccept s)
  | absorb (nm1 : BitVec 5) (hv : decodeCommand v = .ok (.absorb nm1)) (idle : s.busy = false)
      (isOpen : s.phase = phaseOpen) (fits : s.len.toNat + byteCount nm1 ≤ lenMax) :
      CommandEffect v s (absorbAccept (byteCount nm1) s)
  | final (hv : decodeCommand v = .ok .final) (idle : s.busy = false)
      (notDone : s.phase ≠ phaseDone) : CommandEffect v s (finalAccept s)

/-- A legal command on an idle core. -/
theorem runCommand_commandEffect {v : Word} {c : Command} {s : State} (hv : decodeCommand v = .ok c)
    (idle : s.busy = false) : CommandEffect v s (runCommand c s) := by
  cases c with
  | nop => exact .nop hv idle
  | init => exact .init hv idle
  | absorb nm1 =>
    rw [runCommand_absorb]
    obtain ⟨hp, h⟩ | ⟨-, hl, h⟩ | ⟨hp, hl, h⟩ := absorbChecked_cases (byteCount nm1) s <;> rw [h]
    · exact .rejected _ (messageAfterCmd_of_rejected_absorb hv fun acc => hp acc.1)
    · exact .rejected _ (messageAfterCmd_of_rejected_absorb hv fun acc => Nat.not_lt.mpr acc.2 hl)
    · exact .absorb nm1 hv idle hp hl
  | final =>
    rw [runCommand_final]
    obtain ⟨-, h⟩ | ⟨hp, h⟩ := finalChecked_cases s <;> rw [h]
    · exact .rejected _ (messageAfterCmd_of_final hv)
    · exact .final hv idle hp

theorem cmdWrite_commandEffect (v : Word) (s : State) : CommandEffect v s (cmdWrite v s) := by
  cases busy : s.busy with
  | true =>
    rw [cmdWrite, unlessBusy_of_busy _ busy]
    exact .rejected _ (messageAfterCmd_of_busy busy)
  | false =>
    cases hv : decodeCommand v with
    | error e =>
      rw [cmdWrite_of_error hv, unlessBusy_of_idle _ busy]
      exact .rejected _ (messageAfterCmd_of_error hv)
    | ok c =>
      rw [cmdWrite_of_ok hv, unlessBusy_of_idle _ busy]
      exact runCommand_commandEffect hv busy

theorem exec_wrCmd_commandEffect {v : Word} {s t : State} (h : exec (.wrCmd v) s = .next t) :
    CommandEffect v s t := by
  cases h
  exact cmdWrite_commandEffect v s

/-- Settles O29: an accepted command other than NOP leaves BUSY = 1 on a core that was idle, so the
write was rejected, which is a `raise`. -/
theorem rejectedCommandChangesOnlyErr : Obligations.RejectedCommandChangesOnlyErr := by
  intro s t v h hrej
  have accepted_absurd (idle : s.busy = false) (quiet : t.busy = false → v = 0x0#64) : False := by
    obtain busy | ⟨hbusy, hne⟩ := hrej
    · simp [idle] at busy
    · exact hne (quiet hbusy)
  cases exec_wrCmd_commandEffect h with
  | rejected e => exact ⟨rfl, raise_err_ne_zero e s, raise_err_keeps⟩
  | nop hv idle =>
    have hzero : encodeCommand .nop = 0x0#64 := by decide
    exact (accepted_absurd idle fun _ => by rw [← hzero, encodeCommand_of_decodeCommand hv]).elim
  | init _ idle | absorb _ _ idle | final _ idle =>
    exact (accepted_absurd idle fun hbusy => Bool.noConfusion hbusy).elim

/-! ## The relation of core and message -/

theorem phaseAfterAbsorb_ne_done (n : Nat) : phaseAfterAbsorb n ≠ phaseDone := by
  unfold phaseAfterAbsorb
  split <;> decide

theorem settled_engineStep (s : State) : settled (engineStep s) = settled s :=
  settled_of_idle engineStep_pend

/-- Only the low 64 bits count, so the shifted length is `8 * L` as a 64-bit value. -/
theorem bitLength_eq_ofNat (len : BitVec 64) : bitLength len = BitVec.ofNat 64 (8 * len.toNat) := by
  apply BitVec.eq_of_toNat_eq
  rw [bitLength, BitVec.toNat_shiftLeft, BitVec.toNat_ofNat, Nat.shiftLeft_eq, Nat.mul_comm]

namespace Tracks

section
variable {m : List Byte} {s t : State} (hs : Tracks m s)
include hs

/-- The relation speaks of the configuration, S, LEN, BUSY, PHASE and PEND alone. -/
theorem congr (hcfg : t.cfg = s.cfg) (hS : t.S = s.S) (hlen : t.len = s.len)
    (hbusy : t.busy = s.busy) (hphase : t.phase = s.phase) (hpend : t.pend = s.pend) :
    Tracks m t where
  busy_iff := by rw [hbusy, hpend]; exact hs.busy_iff
  len_eq := by rw [hlen]; exact hs.len_eq
  bound := hs.bound
  phase_ne := by rw [hphase]; exact hs.phase_ne
  open_len := by rw [hphase]; exact hs.open_len
  absorbed := by rw [hphase, settled_congr hpend hS hcfg, hcfg]; exact hs.absorbed
  finalized := by rw [hphase, settled_congr hpend hS hcfg, hcfg]; exact hs.finalized

/-- An idle core holds the settled state in S. -/
theorem S_eq_settled (idle : s.busy = false) : s.S = settled s :=
  (settled_of_idle (hs.busy_iff.mp idle)).symm

theorem raise (e : ErrorKind) : Tracks m (Machine.raise e s) := hs.congr rfl rfl rfl rfl rfl rfl

theorem engineStep : Tracks m (Machine.engineStep s) := by
  have hsettled := settled_engineStep s
  obtain ⟨-, h⟩ | ⟨q, -, h⟩ := engineStep_cases s
  · rw [h]
    exact hs
  · rw [h] at hsettled ⊢
    constructor
    case busy_iff => simp
    case len_eq => exact hs.len_eq
    case bound => exact hs.bound
    case phase_ne => exact hs.phase_ne
    case open_len => exact hs.open_len
    case absorbed => rw [hsettled]; exact hs.absorbed
    case finalized => rw [hsettled]; exact hs.finalized

/-- An accepted ABSORB: once it completes, S has absorbed the zero-padded block of `n` bytes
(41_hash_algorithm.md R112 to R114). -/
theorem absorbAccept {n : Nat} (hn : 1 ≤ n ∧ n ≤ 32) (idle : s.busy = false)
    (isOpen : s.phase = phaseOpen) (fits : s.len.toNat + n ≤ lenMax) :
    Tracks (m ++ (quadBytes s.blk).take n) (Machine.absorbAccept n s) := by
  obtain ⟨hpos, hle⟩ := hn
  have hblock : ((quadBytes s.blk).take n).length = n := by simp [hle]
  have hmessage : (m ++ (quadBytes s.blk).take n).length = m.length + n := by
    rw [List.length_append, hblock]
  have hphase : (Machine.absorbAccept n s).phase = phaseAfterAbsorb n := rfl
  have hfull : m.length % 32 = 0 := hs.open_len isOpen
  have hS : s.S = absorbMessage s.cfg m := by
    rw [hs.S_eq_settled idle, hs.absorbed (by rw [isOpen]; decide)]
  constructor
  case busy_iff => simp [Machine.absorbAccept]
  case len_eq => rw [hmessage, ← hs.len_eq]; exact toNat_len_add fits
  case bound => rw [hmessage, ← hs.len_eq]; exact fits
  case phase_ne => rw [hphase]; exact phaseAfterAbsorb_ne_three n
  case open_len => rw [hphase, phaseAfterAbsorb_eq_open, hmessage]; omega
  case absorbed =>
    intro _
    calc settled (Machine.absorbAccept n s)
        = absorbWords s.cfg s.S (maskedBlock s.blk n) := rfl
      _ = absorbWords s.cfg (absorbMessage s.cfg m)
            (quadOfBytes (padBlock ((quadBytes s.blk).take n))) := by
          rw [hS, maskedBlock_eq_quadOfBytes s.blk n hle]
      _ = absorbMessage s.cfg (m ++ (quadBytes s.blk).take n) :=
          (absorbMessage_append_block s.cfg hfull (by omega) (by omega)).symm
  case finalized =>
    intro hdone
    exact absurd (hphase.symm.trans hdone) (phaseAfterAbsorb_ne_done n)

/-- An accepted FINAL: once it completes, S is the final state of the message
(41_hash_algorithm.md R115, R116). -/
theorem finalAccept (idle : s.busy = false) (notDone : s.phase ≠ phaseDone) :
    Tracks m (Machine.finalAccept s) where
  busy_iff := by simp [Machine.finalAccept]
  len_eq := hs.len_eq
  bound := hs.bound
  phase_ne := by simp [Machine.finalAccept, phaseDone]
  open_len := by simp [Machine.finalAccept, phaseDone, phaseOpen]
  absorbed := fun h => absurd rfl h
  finalized := fun _ =>
    calc settled (Machine.finalAccept s)
        = finalize s.cfg s.S (bitLength s.len) := rfl
      _ = finalState s.cfg m := by
          rw [hs.S_eq_settled idle, hs.absorbed notDone, bitLength_eq_ofNat, hs.len_eq, finalState]

end

/-- An accepted INIT tracks the empty message, for its completion writes the IV. -/
theorem initAccept (s : State) : Tracks [] (Machine.initAccept s) where
  busy_iff := by simp [Machine.initAccept]
  len_eq := rfl
  bound := Nat.zero_le _
  phase_ne := by simp [Machine.initAccept, phaseOpen]
  open_len := fun _ => rfl
  absorbed := fun _ => rfl
  finalized := fun h => absurd h (by simp [Machine.initAccept, phaseOpen, phaseDone])

theorem coreReset (s : State) : Tracks [] (Machine.coreReset s) :=
  (tracks_resetOf s.cfg).congr rfl rfl rfl rfl rfl rfl

theorem commandEffect {m : List Byte} {v : Word} {s t : State} (hs : Tracks m s)
    (h : CommandEffect v s t) : Tracks (messageAfterCmd v s m) t := by
  cases h with
  | rejected e same => rw [same]; exact hs.raise e
  | nop hv => rw [messageAfterCmd_of_nop hv]; exact hs
  | init hv idle => rw [messageAfterCmd_of_init hv idle]; exact initAccept s
  | absorb nm1 hv idle isOpen fits =>
    rw [messageAfterCmd_of_absorb hv idle isOpen fits]
    exact hs.absorbAccept (byteCount_bounds nm1) idle isOpen fits
  | final hv idle notDone =>
    rw [messageAfterCmd_of_final hv]
    exact hs.finalAccept idle notDone

end Tracks

/-! ## The message after a step -/

section MessageStep
variable {s : State} (m : List Byte)

theorem messageAfter_of_resetEdge (h : s.resetEdge = true) : messageAfter s m = [] := if_pos h

theorem messageAfter_of_cmd {v : Word} {es : List Event}
    (hin : s.inputs = .transaction (.write 0x00#7 v) :: es) :
    messageAfter s m = messageAfterCmd v s m := by
  simp [messageAfter, State.resetEdge, hin]

/-- Short of a reset edge only a write of CMD changes the message. -/
theorem messageAfter_of_no_cmd (hedge : s.resetEdge = false)
    (hcmd : ∀ v es, s.inputs ≠ .transaction (.write 0x00#7 v) :: es) : messageAfter s m = m := by
  unfold messageAfter
  rw [if_neg (by simp [hedge])]
  split
  · next a v es hin =>
    rw [if_neg]
    rintro rfl
    exact hcmd v es hin
  · rfl

theorem messageAfter_of_engineTurn (open_ : s.rst = false)
    (turn : s.inputs = [] ∨ ∃ es, s.inputs = .engine :: es) : messageAfter s m = m := by
  obtain hin | ⟨es, hin⟩ := turn <;>
    exact messageAfter_of_no_cmd m (by simp [State.resetEdge, hin, open_]) (by simp [hin])

end MessageStep

theorem Tracks.step {s t : State} {m : List Byte} (hs : Tracks m s) (h : Machine.step s = .next t) :
    Tracks (messageAfter s m) t := by
  have hc : Tracks m (consume s) := hs.congr rfl rfl rfl rfl rfl rfl
  obtain ⟨hedge, u, rfl⟩ | ⟨hr, turn, rfl⟩ | ⟨es, hin, rfl⟩ | ⟨x, es, hin, -, hx⟩ := step_kinds h
  · rw [messageAfter_of_resetEdge m hedge]
    exact .coreReset u
  · rw [messageAfter_of_engineTurn m hr turn]
    exact hc.engineStep
  · rw [messageAfter_of_no_cmd m (by simp [State.resetEdge, hin]) (by simp [hin])]
    exact hc.congr rfl rfl rfl rfl rfl rfl
  · by_cases hcmd : ∃ v, x = .write 0x00#7 v
    · obtain ⟨v, rfl⟩ := hcmd
      rw [decode_write_00] at hx
      rw [messageAfter_of_cmd m hin]
      exact hc.commandEffect (exec_wrCmd_commandEffect hx)
    · have hne := not_exists.mp hcmd
      obtain ⟨hlen, hphase, hbusy, hpend, hS, hcfg, -, -⟩ :=
        onlyCommandWritesMoveTheSequencer s t x es hin hne h
      rw [messageAfter_of_no_cmd m (by simp [State.resetEdge, hin]) (by simp [hin, hne])]
      exact hs.congr hcfg hS hlen hbusy hphase hpend

/-- Settles O57, by the kind of step (`Tracks.step`): a reset edge and an accepted INIT track the empty
message, an accepted ABSORB the longer one, and everything else the same. -/
theorem stepTracksTheMessage : Obligations.StepTracksTheMessage :=
  fun _ _ _ hs h => hs.step h

/-- Settles O58: the registers show the digest of S, which is the message's final state. -/
theorem trackedDigestIsTheHash : Obligations.TrackedDigestIsTheHash := by
  intro s m hs done idle
  have hfinal : s.S = finalState s.cfg m := by rw [hs.S_eq_settled idle, hs.finalized done]
  have hdigest : hostDigest (digestView s 0) (digestView s 1) (digestView s 2) = digestBytes s.S :=
    digestRegistersHoldTheDigest.2 s done idle
  rw [tentHash_eq_some, hdigest, hfinal]
  exact ⟨hs.bound, rfl⟩

end Sys2Proof.Machine
end

section
/-! SUPPORT. Runs of a host program (42_commands.md R143; 93_implementation_defined.md U2, U18): without
reset, by the mark or by ERR free of errors, they hash the message the host fed. -/

namespace Sys2Proof.Machine

/-! ## Runs without reset -/

/-- The port is open, and no event to come drives `rst`. -/
structure State.NoReset (s : State) : Prop where
  open_ : s.rst = false
  no_rst : ∀ l, Event.rst l ∉ s.inputs

theorem Effect.rst_eq {s t : State} {i : Instr} (h : Effect s i t) : t.rst = s.rst := by
  cases h <;> rfl

theorem Effect.inputs_eq {s t : State} {i : Instr} (h : Effect s i t) : t.inputs = s.inputs := by
  cases h <;> rfl

namespace State.NoReset
variable {s t : State} (hs : s.NoReset)
include hs

theorem step_cases (h : Machine.step s = .next t) :
    ((s.inputs = [] ∨ ∃ es, s.inputs = .engine :: es) ∧ t = engineStep (consume s)) ∨
    (∃ x es, s.inputs = .transaction x :: es ∧ exec (decode x) (consume s) = .next t) := by
  obtain ⟨hedge, -⟩ | ⟨-, turn, rfl⟩ | ⟨es, hin, -⟩ | ⟨x, es, hin, -, hx⟩ := step_kinds h
  · unfold State.resetEdge at hedge
    split at hedge
    · simp [hs.open_] at hedge
    · simp [hs.open_] at hedge
    · next l _ hin => exact absurd (by simp [hin]) (hs.no_rst l)
    · cases hedge
  · exact .inl ⟨turn, rfl⟩
  · exact absurd (by simp [hin]) (hs.no_rst false)
  · exact .inr ⟨x, es, hin, hx⟩

theorem step_inputs (h : Machine.step s = .next t) : t.inputs = s.inputs.tail := by
  obtain ⟨-, rfl⟩ | ⟨x, es, -, hx⟩ := hs.step_cases h
  · rw [engineStep_inputs, consume_inputs]
  · rw [(exec_effect hx).inputs_eq, consume_inputs]

theorem step (h : Machine.step s = .next t) : t.NoReset where
  open_ := by
    obtain ⟨-, rfl⟩ | ⟨x, es, -, hx⟩ := hs.step_cases h
    · rw [engineStep_rst, consume_rst, hs.open_]
    · rw [(exec_effect hx).rst_eq, consume_rst, hs.open_]
  no_rst l hl := by
    rw [hs.step_inputs h] at hl
    exact hs.no_rst l (List.mem_of_mem_tail hl)

end State.NoReset

/-! ## The fault mark -/

@[simp] theorem engineStep_faulted (s : State) : (engineStep s).faulted = s.faulted := by
  obtain ⟨-, h⟩ | ⟨q, -, h⟩ := engineStep_cases s <;> rw [h]
  exact complete_faulted s q

@[simp] theorem engineStep_err (s : State) : (engineStep s).err = s.err := by
  obtain ⟨-, h⟩ | ⟨q, -, h⟩ := engineStep_cases s <;> rw [h]
  exact complete_err s q

@[simp] theorem engineTurn_faulted (s : State) : (engineTurn s).faulted = s.faulted := by
  obtain ⟨-, h⟩ | ⟨-, h⟩ := engineTurn_cases s <;> rw [h]
  · exact coreReset_faulted s
  · exact engineStep_faulted s

@[simp] theorem driveRst_faulted (l : Bool) (s : State) : (driveRst l s).faulted = s.faulted := by
  cases l <;> rfl

theorem Effect.keeps_mark {s t : State} {i : Instr} (h : Effect s i t) (hs : s.faulted = true) :
    t.faulted = true := by
  cases h with
  | rejected | rejectedRead => rfl
  | _ => exact hs

/-- No step clears the mark (93_implementation_defined.md U2). -/
theorem step_keeps_mark {s t : State} (hs : s.faulted = true) (h : step s = .next t) :
    t.faulted = true := by
  obtain ⟨-, rfl⟩ | ⟨es, -, rfl⟩ | ⟨l, es, -, rfl⟩ | ⟨x, es, -, -, hx⟩ := step_cases h
  · rw [engineTurn_faulted, hs]
  · rw [engineTurn_faulted, consume_faulted, hs]
  · rw [driveRst_faulted, consume_faulted, hs]
  · exact (exec_effect hx).keeps_mark hs

/-- A run that ends with the mark low had it low at its start. -/
theorem noFault_of_run {k : Nat} {s t : State} (h : core.run k s = .next t) (ht : t.NoFault) :
    s.NoFault := by
  by_contra hs
  have hset : t.faulted = true :=
    run_keeps (fun u => u.faulted = true) (fun _ _ => step_keeps_mark) k
      (by simpa [State.NoFault] using hs) h
  simp [State.NoFault, hset] at ht

/-! ## The mark decides nothing -/

/-- An operation on states that does the same to everything but the mark, whatever the mark. -/
def BlindToMark (f : State → State) : Prop :=
  ∀ (b : Bool) (s : State), ∃ b', f { s with faulted := b } = { f s with faulted := b' }

namespace BlindToMark

theorem ite {p : State → Prop} [DecidablePred p] {f g : State → State}
    (hp : ∀ (b : Bool) (s : State), p { s with faulted := b } = p s) (hf : BlindToMark f)
    (hg : BlindToMark g) : BlindToMark fun s => if p s then f s else g s := by
  intro b s
  have hpb := hp b s
  by_cases h : p s
  · simpa only [hpb, h, if_true] using hf b s
  · simpa only [hpb, h, if_false] using hg b s

theorem raise (e : ErrorKind) : BlindToMark (Machine.raise e) := fun _ _ => ⟨true, rfl⟩

theorem unlessBusy {k : State → State} (hk : BlindToMark k) : BlindToMark (Machine.unlessBusy k) :=
  .ite (fun _ _ => rfl) (raise _) hk

theorem absorbChecked (n : Nat) : BlindToMark (Machine.absorbChecked n) :=
  .ite (fun _ _ => rfl) (raise _) (.ite (fun _ _ => rfl) (raise _) fun _ _ => ⟨_, rfl⟩)

theorem finalChecked : BlindToMark Machine.finalChecked :=
  .ite (fun _ _ => rfl) (raise _) fun _ _ => ⟨_, rfl⟩

theorem runCommand (c : Command) : BlindToMark (Machine.runCommand c) := by
  cases c with
  | nop | init => exact fun _ _ => ⟨_, rfl⟩
  | absorb nm1 => exact absorbChecked (byteCount nm1)
  | final => exact finalChecked

theorem cmdWrite (v : Word) : BlindToMark (Machine.cmdWrite v) := by
  cases hv : decodeCommand v with
  | error e =>
    rw [funext (cmdWrite_of_error hv)]
    exact unlessBusy (raise _)
  | ok c =>
    rw [funext (cmdWrite_of_ok hv)]
    exact unlessBusy (runCommand c)

theorem stateRead (j : Fin 4) : BlindToMark (Machine.stateRead j) :=
  .ite (fun _ _ => rfl) (fun _ _ => ⟨_, rfl⟩) fun _ _ => ⟨_, rfl⟩

theorem misaligned (d : Option Word) : BlindToMark (Machine.misaligned d) := by
  cases d <;> exact fun _ _ => ⟨true, rfl⟩

theorem engineStep : BlindToMark Machine.engineStep := by
  intro b s
  refine ⟨b, ?_⟩
  obtain ⟨_, _, _, _, _, _, _, pend, _, _, _, _, _⟩ := s
  cases pend <;> rfl

theorem engineTurn : BlindToMark Machine.engineTurn :=
  .ite (fun _ _ => rfl) (fun _ _ => ⟨_, rfl⟩) engineStep

theorem driveRst (l : Bool) : BlindToMark (Machine.driveRst l) := by
  cases l <;> exact fun _ _ => ⟨_, rfl⟩

end BlindToMark

/-- Every instruction is an operation on states that is blind to the mark. -/
theorem exec_blindToMark (i : Instr) : ∃ f, BlindToMark f ∧ ∀ s, exec i s = .next (f s) := by
  cases i
  case nop => exact ⟨_, .unlessBusy (.runCommand .nop), fun _ => rfl⟩
  case init => exact ⟨_, .unlessBusy (.runCommand .init), fun _ => rfl⟩
  case absorb nm1 => exact ⟨_, .unlessBusy (.absorbChecked (byteCount nm1)), fun _ => rfl⟩
  case final => exact ⟨_, .unlessBusy .finalChecked, fun _ => rfl⟩
  case wrCmd v => exact ⟨_, .cmdWrite v, fun _ => rfl⟩
  case rdState0 => exact ⟨_, .stateRead 0, fun _ => rfl⟩
  case rdState1 => exact ⟨_, .stateRead 1, fun _ => rfl⟩
  case rdState2 => exact ⟨_, .stateRead 2, fun _ => rfl⟩
  case rdState3 => exact ⟨_, .stateRead 3, fun _ => rfl⟩
  case misaligned0 d _ | misaligned1 d _ | misaligned2 d _ => exact ⟨_, .misaligned d, fun _ => rfl⟩
  all_goals exact ⟨_, fun _ _ => ⟨_, rfl⟩, fun _ => rfl⟩

theorem step_withMark {s t : State} (b : Bool) (h : step s = .next t) :
    ∃ b', step { s with faulted := b } = .next { t with faulted := b' } := by
  obtain ⟨hin, rfl⟩ | ⟨es, hin, rfl⟩ | ⟨l, es, hin, rfl⟩ | ⟨x, es, hin, open_, hx⟩ := step_cases h
  · obtain ⟨b', hb⟩ := BlindToMark.engineTurn b s
    exact ⟨b', (step_of_nil (s := { s with faulted := b }) hin).trans (congrArg _ hb)⟩
  · obtain ⟨b', hb⟩ := BlindToMark.engineTurn b (consume s)
    exact ⟨b', (step_of_engine (s := { s with faulted := b }) hin).trans (congrArg _ hb)⟩
  · obtain ⟨b', hb⟩ := BlindToMark.driveRst l b (consume s)
    exact ⟨b', (step_of_rst (s := { s with faulted := b }) hin).trans (congrArg _ hb)⟩
  · obtain ⟨f, hf, hexec⟩ := exec_blindToMark (decode x)
    obtain ⟨b', hb⟩ := hf b (consume s)
    obtain rfl : f (consume s) = t := by simpa [hexec] using hx
    exact ⟨b', (step_of_transaction (s := { s with faulted := b }) hin open_).trans
      ((hexec _).trans (congrArg _ hb))⟩

theorem run_withMark (k : Nat) {s t : State} (b : Bool) (h : core.run k s = .next t) :
    ∃ b', core.run k { s with faulted := b } = .next { t with faulted := b' } := by
  induction k generalizing s b with
  | zero => cases h; exact ⟨b, rfl⟩
  | succ k ih =>
    obtain ⟨u, hu, hr⟩ := next_of_run_succ k h
    obtain ⟨b', hstep⟩ := step_withMark b hu
    obtain ⟨b'', hrun⟩ := ih b' hr
    exact ⟨b'', by rw [run_succ_of_next k hstep, hrun]⟩

/-- A run that raises no error is, with the mark lowered at its start, the same run with it low. -/
theorem State.RaisesNone.run {k : Nat} {s t : State} (hnone : s.RaisesNone k)
    (h : core.run k s = .next t) :
    core.run k { s with faulted := false } = .next { t with faulted := false } := by
  obtain ⟨u, hu, hmark⟩ := hnone
  obtain ⟨b', ht⟩ := run_withMark k false h
  obtain rfl : u = { t with faulted := b' } := Host.Outcome.next.inj (hu.symm.trans ht)
  obtain rfl : b' = false := hmark
  exact ht

/-! ## No error on record -/

/-- No reset and no clearing of ERR is to come, and an error that was raised is on record. -/
structure State.OnRecord (s : State) : Prop where
  noReset : s.NoReset
  no_clear : ∀ v, Event.transaction (.write 0x08#7 v) ∉ s.inputs
  recorded : s.faulted = true → s.err ≠ 0#4

/-- ERR returns to 0 by a write of STATUS alone (60_exceptions.md R210). -/
theorem Effect.recorded {s t : State} {i : Instr} (h : Effect s i t) (hi : ∀ v, i ≠ .wrStatus v)
    (hs : s.faulted = true → s.err ≠ 0#4) : t.faulted = true → t.err ≠ 0#4 := by
  cases h with
  | rejected _ e => exact fun _ => raise_err_ne_zero e s
  | rejectedRead => exact fun _ => raise_err_ne_zero .badAccess s
  | cleared v => exact absurd rfl (hi v)
  | _ => exact hs

theorem State.OnRecord.step {s t : State} (hs : s.OnRecord) (h : Machine.step s = .next t) :
    t.OnRecord where
  noReset := hs.noReset.step h
  no_clear v hv := by
    rw [hs.noReset.step_inputs h] at hv
    exact hs.no_clear v (List.mem_of_mem_tail hv)
  recorded := by
    obtain ⟨-, rfl⟩ | ⟨x, es, hin, hx⟩ := hs.noReset.step_cases h
    · simpa using hs.recorded
    · refine (exec_effect hx).recorded (fun v hv => hs.no_clear v ?_) hs.recorded
      have hwrite := transaction_encode_decode x
      rw [hv] at hwrite
      rw [hin, ← hwrite]
      exact List.mem_cons_self

/-- ERR = 0 at the end of a program that never clears it says that no step raised an error. -/
theorem raisesNone_of_err {k : Nat} {s t : State} (hs : s.NoReset)
    (hclear : ∀ v, Event.transaction (.write 0x08#7 v) ∉ s.inputs) (h : core.run k s = .next t)
    (herr : t.err = 0#4) : s.RaisesNone k := by
  obtain ⟨b, hrun⟩ := run_withMark k false h
  have hstart : State.OnRecord { s with faulted := false } :=
    ⟨⟨hs.open_, hs.no_rst⟩, hclear, fun hmark => Bool.noConfusion hmark⟩
  have hend : State.OnRecord { t with faulted := b } :=
    run_keeps State.OnRecord (fun _ _ hu hstep => hu.step hstep) k hstart hrun
  refine ⟨_, hrun, ?_⟩
  by_contra hmark
  exact hend.recorded (by simpa [State.NoFault] using hmark) herr

/-! ## The host's message -/

/-- BLK holds what the host last wrote to it (10_state.md R26). -/
theorem exec_hostBlk {x : Transaction} {s t : State} (h : exec (decode x) s = .next t) :
    t.blk = hostBlk (.transaction x) s.blk := by
  have heff := (exec_effect h).blk_eq_or
  rw [transaction_encode_decode] at heff
  cases x with
  | read a =>
    obtain hblk | ⟨_, _, hx, -⟩ := heff
    · exact hblk
    · cases hx
  | write a v =>
    simp only [hostBlk]
    split_ifs with h0 h1 h2 h3
    · rw [h0, decode_write_20] at h
      cases h
      rfl
    · rw [h1, decode_write_28] at h
      cases h
      rfl
    · rw [h2, decode_write_30] at h
      cases h
      rfl
    · rw [h3, decode_write_38] at h
      cases h
      rfl
    · obtain hblk | ⟨_, _, hx, ha⟩ := heff
      · exact hblk
      · cases hx
        simp [h0, h1, h2, h3] at ha

theorem hostBytes_of_not_cmd {x : Transaction} (hx : ∀ v, x ≠ .write 0x00#7 v) (blk : Quad)
    (m : List Byte) : hostBytes (.transaction x) blk m = m := by
  cases x with
  | read => rfl
  | write a v =>
    refine if_neg ?_
    rintro rfl
    exact hx v rfl

/-- A CMD write that raises no error does to the message what the host takes it to do. -/
theorem CommandEffect.hostBytes_eq {v : Word} {s t : State} (h : CommandEffect v s t)
    (hmark : t.NoFault) (m : List Byte) :
    hostBytes (.transaction (.write 0x00#7 v)) s.blk m = messageAfterCmd v s m := by
  cases h with
  | rejected => exact Bool.noConfusion hmark
  | nop hv => simp [hostBytes, hv, messageAfterCmd_of_nop hv]
  | init hv idle => simp [hostBytes, hv, messageAfterCmd_of_init hv idle]
  | absorb nm1 hv idle isOpen fits =>
    simp [hostBytes, hv, messageAfterCmd_of_absorb hv idle isOpen fits]
  | final hv => simp [hostBytes, hv, messageAfterCmd_of_final hv]

/-- The host's view goes with the core's through a step that raises no error. -/
theorem hostMessage_step {s t : State} (hs : s.NoReset) (h : step s = .next t) (hmark : t.NoFault)
    (m : List Byte) :
    hostMessage s.blk m s.inputs = hostMessage t.blk (messageAfter s m) t.inputs := by
  have hinputs := hs.step_inputs h
  obtain ⟨turn, rfl⟩ | ⟨x, es, hin, hx⟩ := hs.step_cases h
  · rw [hinputs, engineStep_blk, consume_blk, messageAfter_of_engineTurn m hs.open_ turn]
    obtain hin | ⟨es, hin⟩ := turn <;> rw [hin] <;> rfl
  · have hblk := exec_hostBlk hx
    rw [consume_blk] at hblk
    have hbytes : hostBytes (.transaction x) s.blk m = messageAfter s m := by
      by_cases hcmd : ∃ v, x = .write 0x00#7 v
      · obtain ⟨v, rfl⟩ := hcmd
        rw [decode_write_00] at hx
        rw [messageAfter_of_cmd m hin]
        exact (exec_wrCmd_commandEffect hx).hostBytes_eq hmark m
      · have hne := not_exists.mp hcmd
        rw [hostBytes_of_not_cmd hne,
          messageAfter_of_no_cmd m (by simp [State.resetEdge, hin]) (by simp [hin, hne])]
    rw [hinputs, hin, hostMessage, hblk, hbytes, List.tail_cons]

/-- A program run to its end with no error raised: the core tracks the message it fed. -/
theorem Tracks.run {k : Nat} {s t : State} {m : List Byte} (hs : Tracks m s) (noReset : s.NoReset)
    (h : core.run k s = .next t) (hmark : t.NoFault) (hend : t.inputs = []) :
    Tracks (hostMessage s.blk m s.inputs) t := by
  induction k generalizing s m with
  | zero =>
    cases h
    rw [hend]
    exact hs
  | succ k ih =>
    obtain ⟨u, hu, hr⟩ := next_of_run_succ k h
    rw [hostMessage_step noReset hu (noFault_of_run hr hmark)]
    exact ih (hs.step hu) (noReset.step hu) hr

/-- Settles O59: the second form of the premise is a case of the first (`raisesNone_of_err`), the run
with the mark lowered tracks the host's message (`Tracks.run`), and its end, which differs from `t` in
the mark alone, shows the hash (`trackedDigestIsTheHash`). -/
theorem runWithoutErrorHashesTheHostsMessage : Obligations.RunWithoutErrorHashesTheHostsMessage := by
  intro s t k ready isOpen hlen hS hrst h hend noError done idle
  obtain ⟨hbusy, hpend, open_⟩ := ready
  have noReset : s.NoReset := ⟨open_, hrst⟩
  have hnone : s.RaisesNone k :=
    noError.elim id fun ⟨herr, hclear⟩ => raisesNone_of_err noReset hclear h herr
  have hstart : Tracks [] { s with faulted := false } :=
    (tracks_resetOf s.cfg).congr rfl hS hlen hbusy isOpen hpend
  have hlowered : Tracks (hostMessage s.blk [] s.inputs) { t with faulted := false } :=
    hstart.run ⟨open_, hrst⟩ (hnone.run h) rfl hend
  have htracks : Tracks (hostMessage s.blk [] s.inputs) t :=
    hlowered.congr rfl rfl rfl rfl rfl rfl
  have hcfg : t.cfg = s.cfg :=
    run_keeps (fun u => u.cfg = s.cfg) (fun _ _ hu hstep => (step_cfg hstep).trans hu) k rfl h
  rw [← hcfg]
  exact trackedDigestIsTheHash t _ htracks done idle

end Sys2Proof.Machine
end

section
/-! SUPPORT. The register-access family (43_register_access.md): what a step runs (R150, R151), the
reads and writes of the registers (R151 to R161), and the accesses in error (R164 to R166). -/

namespace Sys2Proof.Machine

/-- Answers agree when their next states do. -/
theorem next_congr {t u : State} (h : t = u) :
    (.next t : Host.Outcome State Fault Refusal) = .next u :=
  congrArg Host.Outcome.next h

/-! ## STATUS -/

theorem exec_rdStatus (s : State) : exec .rdStatus s = .next (respond (statusWord s) s) := rfl

/-- Bits 2 and 1 of STATUS are PHASE (10_state.md R28). -/
theorem statusWord_phase (s : State) : (statusWord s).extractLsb' 1 2 = s.phase := by
  unfold statusWord
  rw [BitVec.extractLsb'_setWidth_of_le (by decide), BitVec.extractLsb'_append_eq_of_le (by decide)]
  exact BitVec.extractLsb'_append_eq_right

theorem statusWord_zeros (s : State) : (statusWord s).extractLsb' 3 5 = 0#5 := by
  unfold statusWord
  rw [BitVec.extractLsb'_setWidth_of_le (by decide)]
  iterate 2 rw [BitVec.extractLsb'_append_eq_of_le (by decide)]
  exact BitVec.extractLsb'_append_eq_right

/-- The fields of STATUS end at bit 11. -/
theorem statusWord_upper_zeros (s : State) : (statusWord s).extractLsb' 12 52 = 0#52 := by
  unfold statusWord
  rw [BitVec.setWidth_eq_append (by decide)]
  exact BitVec.extractLsb'_append_eq_left

/-- Settles O30: the read answers `statusWord`, and each field is read off it by its own lemma. -/
theorem statusReadReturnsItsFields : Obligations.StatusReadReturnsItsFields := by
  intro s
  exact ⟨statusWord s, exec_rdStatus s, statusWord_bit_zero s, statusWord_phase s, statusWord_zeros s,
    statusWord_err s, statusWord_upper_zeros s⟩

/-- Settles O33: the write is `clearErr`, which does not take the value. -/
theorem statusWriteClearsErr : Obligations.StatusWriteClearsErr := by
  intro s v
  have hexec : exec (.wrStatus v) s = .next (clearErr s) := rfl
  rw [hexec, clearErr]

/-! ## What a step runs -/

theorem consume_of_cons {s : State} {e : Event} {es : List Event} (h : s.inputs = e :: es) :
    consume s = { s with inputs := es } := by
  rw [consume, h, List.tail_cons]

/-- Settles O14: `step_of_transaction`, the transaction taken from the queue by `consume`. -/
theorem stepRunsThePresentedTransaction : Obligations.StepRunsThePresentedTransaction := by
  intro s x es open_ hin
  rw [step_of_transaction hin open_, consume_of_cons hin]

/-- Settles O15: the step runs a CMD write, and a legal word's write is its command
(`exec_wrCmd`). -/
theorem stepRunsTheCommandWord : Obligations.StepRunsTheCommandWord := by
  intro s v es c open_ hin hv
  rw [stepRunsThePresentedTransaction s _ es open_ hin, decode_write_00, exec_wrCmd hv]

/-! ## CMD, LEN and the block registers -/

/-- Settles O32: each read responds with its word. -/
theorem commandAndLengthReads : Obligations.CommandAndLengthReads := by
  intro s
  have hcmd : exec .rdCmd s = .next (respond 0#64 s) := rfl
  have hlen : exec .rdLen s = .next (respond s.len s) := rfl
  exact ⟨hcmd, hlen⟩

theorem blkRead_eq (j : Fin 4) (s : State) :
    blkRead j s = { s with reads := s.blk.word j :: s.reads } := rfl

theorem blkWrite_eq (j : Fin 4) (v : Word) (s : State) :
    blkWrite j v s = { s with blk := s.blk.setWord j v } := rfl

/-- Settles O34: `blkRead` answers word `j` and `blkWrite` sets word `j`; neither looks at BUSY. -/
theorem blockRegistersReadAndWrite : Obligations.BlockRegistersReadAndWrite :=
  fun s v => ⟨next_congr (blkRead_eq 0 s), next_congr (blkRead_eq 1 s), next_congr (blkRead_eq 2 s),
    next_congr (blkRead_eq 3 s), next_congr (blkWrite_eq 0 v s), next_congr (blkWrite_eq 1 v s),
    next_congr (blkWrite_eq 2 v s), next_congr (blkWrite_eq 3 v s)⟩

/-! ## STATE -/

theorem stateRead_of_idle {s : State} (idle : s.busy = false) (j : Fin 4) :
    stateRead j s = respond (s.S.word j) s :=
  if_neg (by simp [idle])

theorem stateRead_of_busy {s : State} (busy : s.busy = true) (j : Fin 4) :
    stateRead j s = respondAny s :=
  if_pos busy

/-- Each of the four STATE reads is `stateRead` of its word. -/
theorem exec_rdState {i : Instr}
    (hi : i = .rdState0 ∨ i = .rdState1 ∨ i = .rdState2 ∨ i = .rdState3) (s : State) :
    ∃ j, exec i s = .next (stateRead j s) := by
  obtain rfl | rfl | rfl | rfl := hi
  exacts [⟨0, rfl⟩, ⟨1, rfl⟩, ⟨2, rfl⟩, ⟨3, rfl⟩]

/-- Settles O35: BUSY decides between `respond` of the word and `respondAny`. -/
theorem stateReads : Obligations.StateReads := by
  refine ⟨fun s idle => ?_, fun s i busy hi => ?_⟩
  · have hread (j : Fin 4) : stateRead j s = { s with reads := s.S.word j :: s.reads } :=
      stateRead_of_idle idle j
    exact ⟨next_congr (hread 0), next_congr (hread 1), next_congr (hread 2), next_congr (hread 3)⟩
  · obtain ⟨j, hj⟩ := exec_rdState hi s
    exact ⟨Config.anyWord s.draws, by rw [hj, stateRead_of_busy busy, respondAny]⟩

/-! ## DIGEST -/

/-- Before the digest is valid its registers read 0 (10_state.md R29). -/
theorem digestView_of_invalid {s : State} (h : s.phase ≠ phaseDone ∨ s.busy = true) (j : Fin 3) :
    digestView s j = 0#64 := by
  refine if_neg ?_
  obtain h | h := h <;> simp [digestValid, h]

/-- The third digest word is the low half of word 2, as a mask (43_register_access.md R161). -/
theorem digestWord_two (q : Quad) : digestWord q 2 = q.w2 &&& 0x00000000FFFFFFFF#64 := by
  have hmask : 0x00000000FFFFFFFF#64 = (BitVec.allOnes 32).setWidth 64 := by decide
  rw [hmask, BitVec.and_setWidth_allOnes 32 32, digestWord,
    ← BitVec.setWidth_eq_extractLsb' (by decide), BitVec.setWidth_eq_append (by decide)]
  rfl

/-- Each of the three DIGEST reads is `digestRead` of its word. -/
theorem exec_rdDigest {i : Instr} (hi : i = .rdDigest0 ∨ i = .rdDigest1 ∨ i = .rdDigest2)
    (s : State) : ∃ j, exec i s = .next (digestRead j s) := by
  obtain rfl | rfl | rfl := hi
  exacts [⟨0, rfl⟩, ⟨1, rfl⟩, ⟨2, rfl⟩]

/-- Settles O36: validity decides between the state's word and 0. -/
theorem digestReads : Obligations.DigestReads := by
  refine ⟨fun s done idle => ?_, fun s i invalid hi => ?_⟩
  · have hread (j : Fin 3) : digestRead j s = { s with reads := digestWord s.S j :: s.reads } := by
      rw [digestRead, digestView_of_valid done idle, respond]
    rw [← digestWord_two]
    exact ⟨next_congr (hread 0), next_congr (hread 1), next_congr (hread 2)⟩
  · obtain ⟨j, hj⟩ := exec_rdDigest hi s
    rw [hj, digestRead, digestView_of_invalid invalid, respond]

/-! ## Accesses in error -/

theorem badWrite_eq (s : State) :
    badWrite s = { s with err := if s.err = 0#4 then 1#4 else s.err, faulted := true } := rfl

theorem badRead_eq (s : State) :
    badRead s = { s with err := if s.err = 0#4 then 1#4 else s.err, faulted := true,
                         reads := 0#64 :: s.reads } := rfl

/-- Settles O37: each of the nine writes is `badWrite`. -/
theorem readOnlyWritesRaiseBadAccess : Obligations.ReadOnlyWritesRaiseBadAccess := by
  intro s v i hi
  have hexec : exec i s = .next (badWrite s) := by
    simp only [List.mem_cons, List.not_mem_nil, or_false] at hi
    obtain rfl | rfl | rfl | rfl | rfl | rfl | rfl | rfl | rfl := hi <;> rfl
  rw [hexec, badWrite_eq]

/-- Settles O38: the read is `badRead`, the write `badWrite`. -/
theorem reservedOffsetRaisesBadAccess : Obligations.ReservedOffsetRaisesBadAccess :=
  fun s _ => ⟨next_congr (badRead_eq s), next_congr (badWrite_eq s)⟩

/-- The three misaligned instructions have one meaning, `misaligned`, at every offset
(43_register_access.md R164). -/
theorem exec_misaligned {i : Instr} {d : Option Word} {a : Offset}
    (hi : i = .misaligned0 d a ∨ i = .misaligned1 d a ∨ i = .misaligned2 d a) (s : State) :
    exec i s = .next (misaligned d s) := by
  obtain rfl | rfl | rfl := hi <;> rfl

theorem step_misaligned {s : State} {x : Transaction} {es : List Event} (open_ : s.rst = false)
    (hin : s.inputs = .transaction x :: es) (hx : x.addr &&& 7#7 ≠ 0#7) :
    step s = .next (misaligned x.data { s with inputs := es }) := by
  rw [stepRunsThePresentedTransaction s x es open_ hin, exec_misaligned (decode_misaligned hx)]

/-- Settles O39: by `step_misaligned` and `exec_misaligned` the transaction is `misaligned` of its
data, a `badRead` without data and a `badWrite` with. -/
theorem misalignedTransactionRaisesBadAccess : Obligations.MisalignedTransactionRaisesBadAccess := by
  have hread (s : State) : misaligned none s = badRead s := rfl
  have hwrite (v : Word) (s : State) : misaligned (some v) s = badWrite s := rfl
  refine ⟨fun s a es open_ ha => ⟨fun hin => ?_, fun v hin => ?_⟩, fun s a i hi => ?_,
    fun s a v i hi => ?_⟩
  · exact (step_misaligned open_ hin ha).trans (next_congr (badRead_eq _))
  · exact (step_misaligned open_ hin ha).trans (next_congr (badWrite_eq _))
  · rw [exec_misaligned (by simpa using hi), hread, badRead_eq]
  · rw [exec_misaligned (by simpa using hi), hwrite, badWrite_eq]

end Sys2Proof.Machine
end

section
/-! SUPPORT. The exceptions family (60_exceptions.md): what a raise records (R202), the bit length that
cannot wrap (R204), the causes of BAD_ACCESS (R205), ERR as a bystander of every operation (R209) and
the two ways it returns to 0 (R210). -/

namespace Sys2Proof.Machine

/-! ## What a raise records -/

/-- Settles O20: `raise_eq`, with ERR deciding which code stands. -/
theorem raiseRecordsTheFirstError : Obligations.RaiseRecordsTheFirstError := by
  refine ⟨fun e s clear => ?_, fun e s held => ?_, rfl, rfl, rfl, rfl, rfl⟩
  · rw [raise_eq, if_pos clear]
  · rw [raise_eq, if_neg held]

/-! ## The bit length -/

/-- Settles O27: eight times a length within `LEN_MAX` is below `2^64`, so the 64-bit value of
`bitLength_eq_ofNat` is the number itself. -/
theorem bitLengthIsExact : Obligations.BitLengthIsExact := by
  intro s hs
  have fits : 8 * s.len.toNat < 2 ^ 64 := by
    have hlen : s.len.toNat ≤ 2 ^ 61 - 1 := hs.len_le
    omega
  rw [bitLength_eq_ofNat, BitVec.toNat_ofNat, Nat.mod_eq_of_lt fits]

/-! ## The causes of BAD_ACCESS -/

/-- The rows of the opcode table whose transactions raise BAD_ACCESS (43_register_access.md R164 to
R166). -/
def raisesBadAccess : Instr → Bool
  | .wrLen _ | .wrParams _ | .wrState0 _ | .wrState1 _ | .wrState2 _ | .wrState3 _
  | .wrDigest0 _ | .wrDigest1 _ | .wrDigest2 _ | .rdReserved | .wrReserved _
  | .misaligned0 _ _ | .misaligned1 _ _ | .misaligned2 _ _ => true
  | .nop | .init | .absorb _ | .final | .wrCmd _ | .rdCmd | .rdStatus | .wrStatus _ | .rdLen
  | .rdParams | .rdBlk0 | .rdBlk1 | .rdBlk2 | .rdBlk3 | .wrBlk0 _ | .wrBlk1 _ | .wrBlk2 _ | .wrBlk3 _
  | .rdState0 | .rdState1 | .rdState2 | .rdState3 | .rdDigest0 | .rdDigest1 | .rdDigest2 => false

/-- A misaligned offset is always read as such a row; of the sixteen aligned ones, taken one by one,
0x78 and the writes of read-only registers are (60_exceptions.md R205). -/
theorem raisesBadAccess_decode (x : Transaction) :
    raisesBadAccess (decode x) = true ↔
      (x.addr &&& 7#7 ≠ 0#7 ∨ x.addr = 0x78#7 ∨ ∃ a v, x = .write a v ∧
        a ∈ [0x10#7, 0x18#7, 0x40#7, 0x48#7, 0x50#7, 0x58#7, 0x60#7, 0x68#7, 0x70#7]) := by
  by_cases aligned : x.addr &&& 7#7 = 0#7
  · have haddr := mem_alignedOffsets aligned
    simp only [alignedOffsets, List.mem_cons, List.not_mem_nil, or_false] at haddr
    cases x <;> rcases haddr with h | h | h | h | h | h | h | h | h | h | h | h | h | h | h | h <;>
      cases h <;> simp [raisesBadAccess, Transaction.addr]
  · obtain h | h | h := decode_misaligned aligned <;> simp [h, raisesBadAccess, aligned]

/-- Each such row is `badRead` or `badWrite`, whatever the state. -/
theorem exec_of_raisesBadAccess {i : Instr} (hi : raisesBadAccess i = true) (s : State) :
    exec i s = .next (badRead s) ∨ exec i s = .next (badWrite s) := by
  cases i
  case rdReserved => exact .inl rfl
  case misaligned0 d a | misaligned1 d a | misaligned2 d a =>
    cases d
    · exact .inl rfl
    · exact .inr rfl
  case wrLen | wrParams | wrState0 | wrState1 | wrState2 | wrState3 | wrDigest0 | wrDigest1
      | wrDigest2 | wrReserved => exact .inr rfl
  all_goals cases hi

@[simp] theorem stateRead_err (j : Fin 4) (s : State) : (stateRead j s).err = s.err := by
  obtain ⟨-, h⟩ | ⟨-, h⟩ := stateRead_cases j s <;> rw [h]
  · exact respondAny_err s
  · exact respond_err s _

section OtherErrors
variable {s : State} (hs : s.err ≠ 1#4)
include hs

theorem raise_err_ne_badAccess {e : ErrorKind} (he : e.code ≠ 1#4) : (raise e s).err ≠ 1#4 := by
  rw [raise_err]
  split
  · exact he
  · exact hs

theorem unlessBusy_err_ne_badAccess {k : State → State} (hk : (k s).err ≠ 1#4) :
    (unlessBusy k s).err ≠ 1#4 := by
  obtain ⟨-, h⟩ | ⟨-, h⟩ := unlessBusy_cases k s <;> rw [h]
  · exact raise_err_ne_badAccess hs (by decide)
  · exact hk

/-- A command's own checks raise SEQUENCE and LEN_OVF alone (42_commands.md R131). -/
theorem runCommand_err_ne_badAccess (c : Command) : (runCommand c s).err ≠ 1#4 := by
  cases c with
  | nop | init => exact hs
  | absorb nm1 =>
    rw [runCommand_absorb]
    obtain ⟨-, h⟩ | ⟨-, -, h⟩ | ⟨-, -, h⟩ := absorbChecked_cases (byteCount nm1) s <;> rw [h]
    · exact raise_err_ne_badAccess hs (by decide)
    · exact raise_err_ne_badAccess hs (by decide)
    · exact hs
  | final =>
    rw [runCommand_final]
    obtain ⟨-, h⟩ | ⟨-, h⟩ := finalChecked_cases s <;> rw [h]
    · exact raise_err_ne_badAccess hs (by decide)
    · exact hs

theorem cmdWrite_err_ne_badAccess (v : Word) : (cmdWrite v s).err ≠ 1#4 := by
  cases hv : decodeCommand v with
  | error e =>
    rw [cmdWrite_of_error hv]
    exact unlessBusy_err_ne_badAccess hs (raise_err_ne_badAccess hs (by decide))
  | ok c =>
    rw [cmdWrite_of_ok hv]
    exact unlessBusy_err_ne_badAccess hs (runCommand_err_ne_badAccess hs c)

/-- Outside those rows only commands raise an error, and never BAD_ACCESS. -/
theorem exec_err_ne_badAccess {i : Instr} {t : State} (hi : raisesBadAccess i = false)
    (h : exec i s = .next t) : t.err ≠ 1#4 := by
  cases i <;> cases h
  case nop => exact unlessBusy_err_ne_badAccess hs (runCommand_err_ne_badAccess hs .nop)
  case init => exact unlessBusy_err_ne_badAccess hs (runCommand_err_ne_badAccess hs .init)
  case absorb nm1 =>
    exact unlessBusy_err_ne_badAccess hs (runCommand_err_ne_badAccess hs (.absorb nm1))
  case final => exact unlessBusy_err_ne_badAccess hs (runCommand_err_ne_badAccess hs .final)
  case wrCmd v => exact cmdWrite_err_ne_badAccess hs v
  case rdState0 | rdState1 | rdState2 | rdState3 => exact (stateRead_err _ s).trans_ne hs
  case wrStatus => exact (by decide : 0#4 ≠ 1#4)
  case rdCmd | rdStatus | rdLen | rdParams | rdBlk0 | rdBlk1 | rdBlk2 | rdBlk3 | wrBlk0 | wrBlk1
      | wrBlk2 | wrBlk3 | rdDigest0 | rdDigest1 | rdDigest2 => exact hs
  all_goals cases hi

end OtherErrors

theorem exec_err_eq_badAccess_iff {i : Instr} {s t : State} (clear : s.err = 0#4)
    (h : exec i s = .next t) : t.err = 1#4 ↔ raisesBadAccess i = true := by
  cases hi : raisesBadAccess i with
  | true =>
    refine iff_of_true ?_ rfl
    obtain hbad | hbad := exec_of_raisesBadAccess hi s <;> rw [hbad] at h <;> cases h <;>
      exact if_pos clear
  | false =>
    have hs : s.err ≠ 1#4 := by rw [clear]; decide
    exact iff_of_false (exec_err_ne_badAccess hs hi h) Bool.false_ne_true

/-- Settles O40: the transaction's row raises BAD_ACCESS exactly if `raisesBadAccess` says so, which
`raisesBadAccess_decode` reads off its offset and direction. -/
theorem badAccessCausesAreExact : Obligations.BadAccessCausesAreExact := by
  intro s t x es hin clear h
  obtain ⟨hin', -⟩ | ⟨_, hin', -⟩ | ⟨_, _, hin', -⟩ | ⟨y, es', hin', -, hy⟩ := step_cases h <;>
    rw [hin] at hin' <;> cases hin'
  rw [exec_err_eq_badAccess_iff (s := consume s) clear hy, raisesBadAccess_decode]

/-! ## ERR blocks nothing -/

/-- The second state is the first but for ERR. -/
def SameButErr (s t : State) : Prop := ∃ e, t = { s with err := e }

namespace SameButErr

theorem ite {p q : Prop} [Decidable p] [Decidable q] (hpq : p ↔ q) {s s' t t' : State}
    (hthen : SameButErr s t) (helse : SameButErr s' t') :
    SameButErr (if p then s else s') (if q then t else t') := by
  by_cases hp : p
  · rwa [if_pos hp, if_pos (hpq.mp hp)]
  · rwa [if_neg hp, if_neg (mt hpq.mpr hp)]

section
variable {s t : State} (h : SameButErr s t)
include h

theorem busy_eq : t.busy = s.busy := by
  obtain ⟨e, rfl⟩ := h
  rfl

theorem raise (k : ErrorKind) : SameButErr (Machine.raise k s) (Machine.raise k t) := by
  obtain ⟨e, rfl⟩ := h
  exact ⟨_, rfl⟩

theorem respond (v : Word) : SameButErr (Machine.respond v s) (Machine.respond v t) := by
  obtain ⟨e, rfl⟩ := h
  exact ⟨_, rfl⟩

theorem unlessBusy {k : State → State} (hk : SameButErr (k s) (k t)) :
    SameButErr (Machine.unlessBusy k s) (Machine.unlessBusy k t) :=
  .ite (by rw [h.busy_eq]) (h.raise .busyErr) hk

theorem absorbChecked (n : Nat) :
    SameButErr (Machine.absorbChecked n s) (Machine.absorbChecked n t) := by
  obtain ⟨e, rfl⟩ := h
  exact .ite Iff.rfl ⟨_, rfl⟩ (.ite Iff.rfl ⟨_, rfl⟩ ⟨_, rfl⟩)

theorem finalChecked : SameButErr (Machine.finalChecked s) (Machine.finalChecked t) := by
  obtain ⟨e, rfl⟩ := h
  exact .ite Iff.rfl ⟨_, rfl⟩ ⟨_, rfl⟩

theorem runCommand (c : Command) : SameButErr (Machine.runCommand c s) (Machine.runCommand c t) := by
  cases c with
  | nop => exact h
  | init => obtain ⟨e, rfl⟩ := h; exact ⟨_, rfl⟩
  | absorb nm1 => exact h.absorbChecked (byteCount nm1)
  | final => exact h.finalChecked

theorem cmdWrite (v : Word) : SameButErr (Machine.cmdWrite v s) (Machine.cmdWrite v t) := by
  cases hv : decodeCommand v with
  | error e =>
    rw [cmdWrite_of_error hv, cmdWrite_of_error hv]
    exact h.unlessBusy (h.raise .illegalCmd)
  | ok c =>
    rw [cmdWrite_of_ok hv, cmdWrite_of_ok hv]
    exact h.unlessBusy (h.runCommand c)

theorem stateRead (j : Fin 4) : SameButErr (Machine.stateRead j s) (Machine.stateRead j t) := by
  obtain ⟨e, rfl⟩ := h
  exact .ite Iff.rfl ⟨_, rfl⟩ ⟨_, rfl⟩

theorem misaligned (d : Option Word) :
    SameButErr (Machine.misaligned d s) (Machine.misaligned d t) := by
  cases d with
  | none => exact (h.raise .badAccess).respond 0#64
  | some _ => exact h.raise .badAccess

/-- Only a STATUS read looks at ERR. -/
theorem exec {i : Instr} (hi : i ≠ .rdStatus) :
    ∃ s' t', Machine.exec i s = .next s' ∧ Machine.exec i t = .next t' ∧ SameButErr s' t' := by
  cases i
  case nop => exact ⟨_, _, rfl, rfl, h.unlessBusy (h.runCommand .nop)⟩
  case init => exact ⟨_, _, rfl, rfl, h.unlessBusy (h.runCommand .init)⟩
  case absorb nm1 => exact ⟨_, _, rfl, rfl, h.unlessBusy (h.absorbChecked (byteCount nm1))⟩
  case final => exact ⟨_, _, rfl, rfl, h.unlessBusy h.finalChecked⟩
  case wrCmd v => exact ⟨_, _, rfl, rfl, h.cmdWrite v⟩
  case rdStatus => exact absurd rfl hi
  case rdState0 | rdState1 | rdState2 | rdState3 => exact ⟨_, _, rfl, rfl, h.stateRead _⟩
  case misaligned0 d _ | misaligned1 d _ | misaligned2 d _ => exact ⟨_, _, rfl, rfl, h.misaligned d⟩
  all_goals
    obtain ⟨e, rfl⟩ := h
    exact ⟨_, _, rfl, rfl, _, rfl⟩

end

end SameButErr

/-- Settles O13: a STATUS read answers a word with either ERR, and every other instruction keeps the
states the same but for ERR. -/
theorem errBlocksNothing : Obligations.ErrBlocksNothing := by
  intro i s e
  by_cases hi : i = .rdStatus
  · subst hi
    exact ⟨_, _, exec_rdStatus s, exec_rdStatus _, rfl, rfl, fun hne => absurd rfl hne⟩
  · have hsame : SameButErr s { s with err := e } := ⟨e, rfl⟩
    obtain ⟨t, t', ht, ht', e', rfl⟩ := hsame.exec hi
    exact ⟨t, _, ht, ht', rfl, rfl, fun _ => rfl⟩

/-! ## How ERR returns to 0 -/

/-- No effect but that of a STATUS write changes a nonzero ERR. -/
theorem Effect.keeps_err {s t : State} {i : Instr} (h : Effect s i t) (hi : ∀ v, i ≠ .wrStatus v)
    (held : s.err ≠ 0#4) : t.err = s.err := by
  cases h with
  | rejected | rejectedRead => exact raise_err_keeps held
  | cleared v => exact absurd rfl (hi v)
  | _ => rfl

/-- A transaction decoded to a STATUS write is a write of offset 0x08. -/
theorem eq_write_of_decode_wrStatus {x : Transaction} {v : Word} (h : decode x = .wrStatus v) :
    x = .write 0x08#7 v := by
  rw [← transaction_encode_decode x, h]
  rfl

theorem step_of_resetEdge {s t : State} (edge : s.resetEdge = true) (h : step s = .next t) :
    ∃ u, t = coreReset u := by
  obtain ⟨-, hu⟩ | ⟨hr, hin, -⟩ | ⟨es, hin, -⟩ | ⟨x, es, hin, -⟩ := step_kinds h
  · exact hu
  · obtain hin | ⟨es, hin⟩ := hin <;> simp [State.resetEdge, hin, hr] at edge
  · simp [State.resetEdge, hin] at edge
  · simp [State.resetEdge, hin] at edge

/-- Settles O12, by the kind of step: the Engine's turn and the release of reset keep ERR, a
transaction keeps it by `Effect.keeps_err` unless it is the write of STATUS, and a reset edge leaves
`coreReset`. -/
theorem errClearsOnlyByStatusWriteOrReset : Obligations.ErrClearsOnlyByStatusWriteOrReset := by
  refine ⟨fun s t h held hedge hclear => ?_, fun s v es open_ hin => ?_, fun s t edge h => ?_⟩
  · obtain ⟨edge, -⟩ | ⟨-, -, rfl⟩ | ⟨es, -, rfl⟩ | ⟨x, es, hin, -, hx⟩ := step_kinds h
    · simp [hedge] at edge
    · rw [engineStep_err, consume_err]
    · rfl
    · refine (exec_effect hx).keeps_err (fun v hv => hclear v es ?_) held
      rw [hin, eq_write_of_decode_wrStatus hv]
  · rw [stepRunsThePresentedTransaction s _ es open_ hin, decode_write_08]
    exact statusWriteClearsErr _ v
  · obtain ⟨u, rfl⟩ := step_of_resetEdge edge h
    exact coreReset_err u

end Sys2Proof.Machine
end

section
/-! SUPPORT. Reset and hazards (70_reset_and_hazards.md): a reset edge (R230, R231), the release of reset
and the one stop of a step (R232), and the completion of a pending operation (R238). -/

namespace Sys2Proof.Machine

/-! ## Reset -/

/-- While the port is held in reset the Engine's turn is a reset edge. -/
theorem engineTurn_of_held {s : State} (held : s.rst = true) :
    engineTurn s = coreReset { s with rst := true } := by
  rw [engineTurn, if_pos held, ← held]

/-- Every kind of reset edge takes its event and resets the core, the level of the port high. -/
theorem step_resetEdge {s : State} (edge : s.resetEdge = true) :
    step s = .next (coreReset { consume s with rst := true }) := by
  unfold State.resetEdge at edge
  split at edge
  · next hin => rw [step_of_nil hin, consume_of_nil hin, engineTurn_of_held edge]
  · next hin => rw [step_of_engine hin, engineTurn_of_held (s := consume s) edge]
  · next hin => rw [step_of_rst hin, edge, driveRst, if_pos rfl]
  · cases edge

/-- Settles O3: the edge by `step_resetEdge`, and the release drives the port low and no more. -/
theorem resetEdgeAbandonsThePendingOperation : Obligations.ResetEdgeAbandonsThePendingOperation := by
  refine ⟨fun s edge => ⟨_, step_resetEdge edge, rfl⟩, fun s es hin => ?_⟩
  rw [step_of_rst hin, consume_of_cons hin]
  rfl

/-! ## How a step stops -/

theorem exec_total (i : Instr) (s : State) : ∃ t, exec i s = .next t := by
  obtain ⟨f, -, hf⟩ := exec_blindToMark i
  exact ⟨f s, hf s⟩

theorem step_of_transaction_held {s : State} {x : Transaction} {es : List Event}
    (hin : s.inputs = .transaction x :: es) (held : s.rst = true) :
    step s = .fault .transactionDuringReset := by
  unfold step
  rw [hin]
  exact if_pos held

/-- A step answers a next state, but for a transaction presented during reset. -/
theorem step_total (s : State) :
    (∃ t, step s = .next t) ∨
    (s.rst = true ∧ (∃ x es, s.inputs = .transaction x :: es) ∧
      step s = .fault .transactionDuringReset) := by
  match hin : s.inputs with
  | [] => exact .inl ⟨_, step_of_nil hin⟩
  | .engine :: _ => exact .inl ⟨_, step_of_engine hin⟩
  | .rst _ :: _ => exact .inl ⟨_, step_of_rst hin⟩
  | .transaction x :: es =>
    cases hr : s.rst with
    | false =>
      obtain ⟨t, ht⟩ := exec_total (decode x) (consume s)
      exact .inl ⟨t, (step_of_transaction hin hr).trans ht⟩
    | true => exact .inr ⟨rfl, ⟨x, es, rfl⟩, step_of_transaction_held hin hr⟩

/-- Settles O4: by `step_total` no step refuses, and one that faults meets a transaction during reset. -/
theorem transactionDuringResetIsStuck : Obligations.TransactionDuringResetIsStuck := by
  refine ⟨fun s x es held hin => step_of_transaction_held hin held, fun s r h => ?_, fun s r h => ?_⟩
  · obtain ⟨t, ht⟩ | ⟨held, hin, -⟩ := step_total s
    · cases ht.symm.trans h
    · exact ⟨held, hin⟩
  · obtain ⟨t, ht⟩ | ⟨-, -, hfault⟩ := step_total s
    · cases ht.symm.trans h
    · cases hfault.symm.trans h

/-! ## The pending operation completes -/

/-- Without reset every event is taken, one a step. -/
theorem State.NoReset.run_inputs {s : State} (hs : s.NoReset) :
    ∃ t, core.run s.inputs.length s = .next t ∧ t.inputs = [] ∧ t.NoReset := by
  induction hlen : s.inputs.length generalizing s with
  | zero => exact ⟨s, rfl, List.length_eq_zero_iff.mp hlen, hs⟩
  | succ k ih =>
    obtain ⟨u, hu⟩ : ∃ u, Machine.step s = .next u := by
      obtain hu | ⟨held, -⟩ := step_total s
      · exact hu
      · simp [hs.open_] at held
    rw [run_succ_of_next k hu]
    exact ih (hs.step hu) (by rw [hs.step_inputs hu, List.length_tail, hlen, Nat.add_sub_cancel])

/-- Settles O19: once every event is taken (`State.NoReset.run_inputs`) the last step is the Engine's,
and BUSY goes with PEND by the invariants, which every run keeps. -/
theorem pendingOperationCompletes : Obligations.PendingOperationCompletes := by
  intro s open_ hrst
  obtain ⟨u, hrun, hin, hu⟩ := State.NoReset.run_inputs ⟨open_, hrst⟩
  have hlast := step_engineTurn hu.open_ (.inl hin)
  have hall := (run_add _ 1 hrun).trans (run_succ_of_next 0 hlast)
  refine ⟨_, hall, engineStep_pend, by rw [hin, List.tail_nil], (engineStep_rst u).trans hu.open_,
    fun hinv => ?_⟩
  exact (run_keeps State.Inv (fun _ _ h hstep => h.step hstep) _ hinv hall).busy_iff.mpr engineStep_pend

end Sys2Proof.Machine
end

section
/-! SUPPORT. The safe host sequence (70_reset_and_hazards.md R242): what each of its pseudo-instructions
leads the core to, and the hash it reads in the end. -/

namespace Sys2Proof.Machine

/-! ## Events that lead from one state to another -/

/-- Whatever events come after them, the events `evs` lead the core from `s` to `t`. What `s` and `t`
themselves hold as events to come does not count. -/
def Leads (evs : List Event) (s t : State) : Prop :=
  ∀ es, core.run evs.length { s with inputs := evs ++ es } = .next { t with inputs := es }

theorem Leads.append {evs evs' : List Event} {s t u : State} (h : Leads evs s t)
    (h' : Leads evs' t u) : Leads (evs ++ evs') s u := by
  intro es
  rw [List.length_append, List.append_assoc, run_add _ _ (h _)]
  exact h' es

theorem Leads.cons {e : Event} {evs : List Event} {s t u : State} (h : Leads [e] s t)
    (h' : Leads evs t u) : Leads (e :: evs) s u :=
  h.append h'

section Open
variable {s t : State} (open_ : s.rst = false)
include open_

theorem leads_transaction {x : Transaction}
    (h : ∀ es, exec (decode x) { s with inputs := es } = .next { t with inputs := es }) :
    Leads [.transaction x] s t := fun es =>
  run_succ_of_next 0
    ((stepRunsThePresentedTransaction { s with inputs := .transaction x :: es } x es open_ rfl).trans
      (h es))

/-- A command written to an idle core. -/
theorem leads_command (c : Command) (idle : s.busy = false)
    (h : ∀ es, runCommand c { s with inputs := es } = { t with inputs := es }) :
    Leads [.transaction (.write 0x00#7 (encodeCommand c))] s t := by
  refine leads_transaction open_ fun es => ?_
  rw [decode_write_00, ← h es]
  exact exec_wrCmd_idle (decodeCommand_encodeCommand c) idle

theorem leads_pollEvents (l k : Nat) : Leads (pollEvents l k) s (afterPoll k s) := by
  intro es
  have hlength : (pollEvents l k).length = k + 2 := by simp [pollEvents_eq]
  rw [hlength]
  exact run_pollEvents open_ l k es

end Open

/-! ## What a program ensures -/

/-- However many passes each of its POLLs takes, the program leads the core from `s` to a state with
`P`. -/
def Ensures (ps : List Pseudo) (s : State) (P : State → Prop) : Prop :=
  ∀ ks, ∃ t, Leads (issue ks ps) s t ∧ P t

/-- The polls of a program in two parts take their numbers of passes one part after the other. -/
theorem issue_append (ks : List Nat) (ps qs : List Pseudo) :
    ∃ ks', issue ks (ps ++ qs) = issue ks ps ++ issue ks' qs := by
  induction ps generalizing ks with
  | nil => exact ⟨ks, rfl⟩
  | cons p ps ih =>
    cases p with
    | poll l =>
      obtain ⟨ks', h⟩ := ih ks.tail
      exact ⟨ks', by simp only [List.cons_append, issue, h, List.append_assoc]⟩
    | _ =>
      obtain ⟨ks', h⟩ := ih ks
      exact ⟨ks', by simp only [List.cons_append, issue, h, List.append_assoc]⟩

namespace Ensures
variable {s : State} {P Q : State → Prop}

theorem nil (h : P s) : Ensures [] s P := fun _ => ⟨s, fun _ => rfl, h⟩

theorem append {ps qs : List Pseudo} (h : Ensures ps s P) (h' : ∀ t, P t → Ensures qs t Q) :
    Ensures (ps ++ qs) s Q := by
  intro ks
  obtain ⟨ks', hissue⟩ := issue_append ks ps qs
  obtain ⟨t, hst, hP⟩ := h ks
  obtain ⟨u, htu, hQ⟩ := h' t hP ks'
  exact ⟨u, hissue ▸ hst.append htu, hQ⟩

theorem cons {p : Pseudo} {qs : List Pseudo} (h : Ensures [p] s P)
    (h' : ∀ t, P t → Ensures qs t Q) : Ensures (p :: qs) s Q :=
  h.append h'

theorem mono {ps : List Pseudo} (h : Ensures ps s P) (hPQ : ∀ t, P t → Q t) : Ensures ps s Q := by
  intro ks
  obtain ⟨t, hlead, hP⟩ := h ks
  exact ⟨t, hlead, hPQ t hP⟩

/-- A program without POLL issues the same events for every list of numbers of passes. -/
theorem of_leads {ps : List Pseudo} {evs : List Event} {t : State} (hissue : ∀ ks, issue ks ps = evs)
    (hlead : Leads evs s t) (h : P t) : Ensures ps s P :=
  fun ks => ⟨t, by rwa [hissue ks], h⟩

theorem poll (l : Nat) (open_ : s.rst = false) (h : ∀ k, P (afterPoll k s)) :
    Ensures [.poll l] s P := fun ks =>
  ⟨_, (leads_pollEvents open_ l (ks.headD 0)).append (t := afterPoll (ks.headD 0) s) fun _ => rfl,
    h _⟩

end Ensures

/-! ## A core in the middle of the sequence -/

/-- Out of reset, of the same configuration as at the start, and with no error raised since. -/
structure Undisturbed (start s : State) : Prop where
  open_ : s.rst = false
  cfg_eq : s.cfg = start.cfg
  mark_eq : s.faulted = start.faulted
  err_eq : s.err = 0#4

/-- Idle between two commands of the sequence, with the message `m` absorbed. -/
structure Hashing (start : State) (m : List Byte) (s : State) : Prop where
  undisturbed : Undisturbed start s
  tracks : Tracks m s
  idle : s.busy = false

@[simp] theorem engineStep_phase (s : State) : (engineStep s).phase = s.phase := by
  obtain ⟨-, h⟩ | ⟨q, -, h⟩ := engineStep_cases s <;> rw [h]
  exact complete_phase s q

@[simp] theorem afterPoll_phase (k : Nat) (s : State) : (afterPoll k s).phase = s.phase := by
  simp [afterPoll, statusReads_eq]

theorem Tracks.afterPoll {m : List Byte} {s : State} (hs : Tracks m s) (k : Nat) :
    Tracks m (Machine.afterPoll k s) := by
  have hreads : Tracks m (statusReads k s) := by
    rw [statusReads_eq]
    exact hs.congr rfl rfl rfl rfl rfl rfl
  exact hreads.engineStep.congr rfl rfl rfl rfl rfl rfl

section Sequence
variable {start s : State} {m : List Byte}

theorem Undisturbed.afterPoll (hs : Undisturbed start s) (k : Nat) :
    Undisturbed start (Machine.afterPoll k s) where
  open_ := by simp [Machine.afterPoll, statusReads_eq, hs.open_]
  cfg_eq := by simp [Machine.afterPoll, statusReads_eq, hs.cfg_eq]
  mark_eq := by simp [Machine.afterPoll, statusReads_eq, hs.mark_eq]
  err_eq := by simp [Machine.afterPoll, statusReads_eq, hs.err_eq]

/-- POLL waits for the command before it: the core is idle again, in the phase that command set. -/
theorem ensures_poll (l : Nat) (hs : Undisturbed start s) (hm : Tracks m s) :
    Ensures [.poll l] s fun t => Hashing start m t ∧ t.phase = s.phase := by
  refine .poll l hs.open_ fun k => ⟨⟨hs.afterPoll k, hm.afterPoll k, ?_⟩, afterPoll_phase k s⟩
  exact (hm.afterPoll k).busy_iff.mpr engineStep_pend

/-! ## The parts of the sequence -/

theorem ensures_clrerr (open_ : s.rst = false) : Ensures [.clrerr] s (· = clearErr s) :=
  .of_leads (fun _ => rfl) (leads_transaction open_ fun _ => rfl) rfl

theorem ensures_init_poll (l : Nat) (hs : Undisturbed start s) (idle : s.busy = false) :
    Ensures [.init, .poll l] s fun t => Hashing start [] t ∧ t.phase = phaseOpen := by
  have hinit : Ensures [.init] s (· = initAccept s) :=
    .of_leads (fun _ => rfl) (leads_command hs.open_ .init idle fun _ => rfl) rfl
  refine hinit.cons ?_
  rintro _ rfl
  exact ensures_poll l ⟨hs.open_, hs.cfg_eq, hs.mark_eq, hs.err_eq⟩ (.initAccept s)

theorem leads_blkWrite (j : Fin 4) (v : Word) (open_ : s.rst = false) :
    Leads [.transaction (.write (RegName.blk j).offset v)] s (blkWrite j v s) := by
  refine leads_transaction open_ fun es => ?_
  match j with
  | 0 => exact congrArg (exec · _) (decode_write_20 v)
  | 1 => exact congrArg (exec · _) (decode_write_28 v)
  | 2 => exact congrArg (exec · _) (decode_write_30 v)
  | 3 => exact congrArg (exec · _) (decode_write_38 v)

theorem leads_ldblk (b : List Byte) (open_ : s.rst = false) :
    Leads (Pseudo.ldblk b).events s { s with blk := quadOfBytes (padBlock b) } :=
  .cons (leads_blkWrite 0 _ open_) <| .cons (leads_blkWrite 1 _ open_) <|
    .cons (leads_blkWrite 2 _ open_) (leads_blkWrite 3 _ open_)

theorem ensures_ldblk (b : List Byte) (open_ : s.rst = false) :
    Ensures [.ldblk b] s (· = { s with blk := quadOfBytes (padBlock b) }) :=
  .of_leads (fun _ => List.append_nil _) (leads_ldblk b open_) rfl

theorem ensures_absorb (nm1 : BitVec 5) (open_ : s.rst = false) (idle : s.busy = false)
    (isOpen : s.phase = phaseOpen) (fits : s.len.toNat + byteCount nm1 ≤ lenMax) :
    Ensures [.absorb nm1] s (· = absorbAccept (byteCount nm1) s) := by
  refine .of_leads (fun _ => (List.append_nil _).trans (absorb_events nm1))
    (leads_command open_ (.absorb nm1) idle fun es => ?_) rfl
  exact absorbChecked_of_fits (s := { s with inputs := es }) isOpen fits

/-- A loaded block begins with its bytes (20_memory.md R51). -/
theorem take_quadBytes_padBlock {b : List Byte} (hle : b.length ≤ 32) :
    (quadBytes (quadOfBytes (padBlock b))).take b.length = b := by
  have hlength : (padBlock b).length = 32 := by simp [padBlock, hle]
  rw [quadBytes_quadOfBytes hlength, padBlock, List.take_left]

theorem ensures_block {b : List Byte} (l : Nat) (hs : Hashing start m s) (isOpen : s.phase = phaseOpen)
    (hpos : 1 ≤ b.length) (hle : b.length ≤ 32) (fits : m.length + b.length ≤ lenMax) :
    Ensures [.ldblk b, .absorb (BitVec.ofNat 5 (b.length - 1)), .poll l] s fun t =>
      Hashing start (m ++ b) t ∧ t.phase = phaseAfterAbsorb b.length := by
  obtain ⟨⟨open_, hcfg, hmark, herr⟩, htracks, idle⟩ := hs
  have hcount := byteCount_ofNat hpos hle
  refine .cons (ensures_ldblk b open_) ?_
  rintro _ rfl
  refine .cons (ensures_absorb _ open_ idle isOpen ?_) ?_
  · rwa [hcount, htracks.len_eq]
  · rintro _ rfl
    rw [hcount]
    have hloaded : Tracks m { s with blk := quadOfBytes (padBlock b) } :=
      htracks.congr rfl rfl rfl rfl rfl rfl
    have habsorbed := hloaded.absorbAccept ⟨hpos, hle⟩ idle isOpen (by rwa [hloaded.len_eq])
    rw [take_quadBytes_padBlock hle] at habsorbed
    exact ensures_poll l ⟨open_, hcfg, hmark, herr⟩ habsorbed

theorem blocksProgram_of_ne_nil (f l : Nat) (hm : m ≠ []) :
    blocksProgram (f + 1) l m =
      [.ldblk (m.take 32), .absorb (BitVec.ofNat 5 ((m.take 32).length - 1)), .poll l] ++
        blocksProgram f (l + 1) (m.drop 32) := by
  cases m with
  | nil => contradiction
  | cons => rfl

/-- The blocks of `rest`, fed to a core that has absorbed `m`. Only the last block can be shorter than
32 bytes, so each finds the phase OPEN. -/
theorem ensures_blocks {f : Nat} (l : Nat) {rest : List Byte} (hf : rest.length ≤ f)
    (hs : Hashing start m s) (fits : m.length + rest.length ≤ lenMax)
    (isOpen : rest ≠ [] → s.phase = phaseOpen) (notDone : s.phase ≠ phaseDone) :
    Ensures (blocksProgram f l rest) s fun t =>
      Hashing start (m ++ rest) t ∧ t.phase ≠ phaseDone := by
  induction f generalizing l m s rest with
  | zero =>
    obtain rfl : rest = [] := List.length_eq_zero_iff.mp (by omega)
    exact .nil ⟨by rwa [List.append_nil], notDone⟩
  | succ f ih =>
    rcases eq_or_ne rest [] with rfl | hrest
    · exact .nil ⟨by rwa [List.append_nil], notDone⟩
    · have hpos := List.length_pos_of_ne_nil hrest
      have htake : (rest.take 32).length = min 32 rest.length := List.length_take
      have hdrop : (rest.drop 32).length = rest.length - 32 := List.length_drop
      rw [blocksProgram_of_ne_nil f l hrest]
      refine (ensures_block l hs (isOpen hrest) (by omega) (by omega) (by omega)).append ?_
      rintro t ⟨ht, hphase⟩
      have hnext := ih (l + 1) (rest := rest.drop 32) (by omega) ht
        (by rw [List.length_append]; omega) (fun hmore => ?_) ?_
      · rwa [List.append_assoc, List.take_append_drop] at hnext
      · have hfull := List.length_pos_of_ne_nil hmore
        rw [hphase, phaseAfterAbsorb_eq_open]
        omega
      · rw [hphase]
        exact phaseAfterAbsorb_ne_done _

theorem ensures_final_poll (l : Nat) (hs : Hashing start m s) (notDone : s.phase ≠ phaseDone) :
    Ensures [.final, .poll l] s fun t => Hashing start m t ∧ t.phase = phaseDone := by
  obtain ⟨⟨open_, hcfg, hmark, herr⟩, htracks, idle⟩ := hs
  have hfinal : Ensures [.final] s (· = finalAccept s) :=
    .of_leads (t := finalAccept s) (fun _ => rfl) (leads_command open_ .final idle fun es =>
      finalChecked_of_not_done (s := { s with inputs := es }) notDone) rfl
  refine hfinal.cons ?_
  rintro _ rfl
  exact ensures_poll l ⟨open_, hcfg, hmark, herr⟩ (htracks.finalAccept idle notDone)

/-- The state after CHKERR and RDDIGEST: STATUS and the three digest words have been read. -/
def afterDigest (s : State) : State :=
  { s with reads := digestView s 2 :: digestView s 1 :: digestView s 0 :: statusWord s :: s.reads }

theorem leads_read {a : Offset} (v : Word) (open_ : s.rst = false)
    (h : ∀ es, exec (decode (.read a)) { s with inputs := es } =
      .next (respond v { s with inputs := es })) :
    Leads [.transaction (.read a)] s (respond v s) :=
  leads_transaction open_ h

theorem ensures_chkerr_rddigest (open_ : s.rst = false) :
    Ensures [.chkerr, .rddigest] s (· = afterDigest s) :=
  .of_leads (fun _ => rfl)
    (.cons (leads_read (statusWord s) open_ fun _ => rfl) <|
      .cons (leads_read (digestView s 0) open_ fun _ => rfl) <|
      .cons (leads_read (digestView s 1) open_ fun _ => rfl) <|
      leads_read (digestView s 2) open_ fun _ => rfl) rfl

end Sequence

/-! ## The whole sequence -/

/-- Up to its first block the sequence brings the core to the empty message, by INIT or because the core
was there at the start. -/
theorem ensures_start {s : State} (withInit : Bool) (ready : s.Ready)
    (fresh : withInit = false → s.phase = phaseOpen ∧ s.len = 0#64 ∧ s.S = s.cfg.raw.iv) :
    Ensures ([.clrerr] ++ if withInit then [.init, .poll 0] else []) s fun t =>
      Hashing s [] t ∧ t.phase = phaseOpen := by
  obtain ⟨hbusy, hpend, open_⟩ := ready
  have hclear : Undisturbed s (clearErr s) := ⟨open_, rfl, rfl, rfl⟩
  refine (ensures_clrerr open_).append ?_
  rintro _ rfl
  cases withInit with
  | true => exact ensures_init_poll 0 hclear hbusy
  | false =>
    obtain ⟨isOpen, hlen, hS⟩ := fresh rfl
    have hempty : Tracks [] (clearErr s) :=
      (tracks_resetOf s.cfg).congr rfl hS hlen hbusy isOpen hpend
    exact .nil ⟨⟨hclear, hempty, hbusy⟩, isOpen⟩

theorem ensures_safeProgram {s : State} {m : List Byte} (withInit : Bool) (ready : s.Ready)
    (hm : m.length ≤ lenMax)
    (fresh : withInit = false → s.phase = phaseOpen ∧ s.len = 0#64 ∧ s.S = s.cfg.raw.iv) :
    Ensures (safeProgram withInit m) s fun t =>
      ∃ u, Hashing s m u ∧ u.phase = phaseDone ∧ t = afterDigest u := by
  have hblocks : Ensures (([.clrerr] ++ if withInit then [.init, .poll 0] else []) ++
      blocksProgram m.length 1 m) s fun t => Hashing s m t ∧ t.phase ≠ phaseDone := by
    refine (ensures_start withInit ready fresh).append ?_
    rintro t ⟨ht, isOpen⟩
    exact ensures_blocks 1 le_rfl ht (by rwa [List.length_nil, Nat.zero_add]) (fun _ => isOpen)
      (by rw [isOpen]; decide)
  refine hblocks.append ?_
  rintro t ⟨ht, notDone⟩
  refine (ensures_final_poll _ ht notDone).append (qs := [.chkerr, .rddigest]) ?_
  rintro u ⟨hu, done⟩
  exact (ensures_chkerr_rddigest hu.undisturbed.open_).mono fun _ ht => ⟨u, hu, done, ht⟩

theorem statusWord_of_done {s : State} (done : s.phase = phaseDone) (idle : s.busy = false)
    (clear : s.err = 0#4) : statusWord s = 0x4#64 := by
  rw [statusWord, done, idle, clear]
  decide

/-- Settles O60: the sequence ensures a core that has finalized the message and answered the last four
reads (`ensures_safeProgram`); STATUS shows DONE alone, and the digest registers show the hash
(`trackedDigestIsTheHash`). -/
theorem safeSequenceReadsTheHash : Obligations.SafeSequenceReadsTheHash := by
  intro s m withInit ks es ready hm fresh hin
  obtain ⟨_, hlead, t, ⟨⟨-, hcfg, hmark, herr⟩, htracks, idle⟩, done, rfl⟩ :=
    ensures_safeProgram withInit ready hm fresh ks
  have hrun := hlead es
  have hstatus := statusWord_of_done done idle herr
  rw [← safeSequence, ← hin] at hrun
  refine ⟨_, digestView t 0, digestView t 1, digestView t 2, statusWord t, t.reads, hrun, rfl, hcfg,
    done, idle, herr, hmark, htracks.len_eq, rfl, hstatus, (errIsZero_statusWord t).mpr herr, ?_⟩
  rw [← hcfg]
  exact trackedDigestIsTheHash t m htracks done idle

end Sys2Proof.Machine
end

section
/-! SUPPORT. The fault mark (93_implementation_defined.md U2): a recorded error implies the mark after
every step, because ERR leaves 0 by a raise alone, and a raise sets the mark. -/

namespace Sys2Proof.Machine

theorem State.Marked.of_err_zero {s : State} (h : s.err = 0#4) : s.Marked := fun hne => absurd h hne

/-- Of the effects of a transaction, a raise sets the mark, a clear makes ERR 0, and the others change
neither. -/
theorem Effect.keeps_marked {s t : State} {i : Instr} (h : Effect s i t) (hs : s.Marked) :
    t.Marked := by
  cases h with
  | rejected | rejectedRead => exact fun _ => rfl
  | cleared => exact .of_err_zero (clearErr_err s)
  | _ => exact hs

theorem engineStep_keeps_marked {s : State} (hs : s.Marked) : (engineStep s).Marked := by
  simpa [State.Marked] using hs

/-- No step leaves an error on record without the mark: a reset edge makes ERR 0, and the Engine and
the release of reset change neither. -/
theorem step_keeps_marked {s t : State} (hs : s.Marked) (h : step s = .next t) : t.Marked := by
  have hc : (consume s).Marked := hs
  obtain ⟨-, u, rfl⟩ | ⟨-, -, rfl⟩ | ⟨es, -, rfl⟩ | ⟨x, es, -, -, hx⟩ := step_kinds h
  · exact .of_err_zero (coreReset_err u)
  · exact engineStep_keeps_marked hc
  · exact hc
  · exact (exec_effect hx).keeps_marked hc

/-- Settles O7: the mark stays by `step_keeps_mark`, and ERR implies it by `step_keeps_marked`. -/
theorem faultMarkIsNeverCleared : Obligations.FaultMarkIsNeverCleared := by
  intro s t h
  exact ⟨fun hs => step_keeps_mark hs h, fun hs => step_keeps_marked hs h⟩

end Sys2Proof.Machine
end
